-- ==== Sys2Proof/Word.lean ====
section
/-! DEFINITION. The word types of the engine: bytes, 32-bit value words and the 40-bit operation word. -/

namespace Sys2Proof

/-- A byte, 8 bits (00_scope.md, Notation). -/
abbrev Byte := BitVec 8

/-- A 32-bit word: the argument of an operation word (R66) and the register VAL (R19). -/
abbrev Word32 := BitVec 32

/-- A 40-bit operation word: bits 39..32 the opcode, bits 31..0 the argument (R66). -/
abbrev OpWord := BitVec 40

end Sys2Proof
end

