-- ==== Sys2Proof/Syntax.lean ====
section
/-! DEFINITION. The operations of the engine, one constructor per row of spec/opcode_table.json, with operands of the
exact widths of their argument forms (R67); and the source lines of the assembler syntax (R73, R74). -/

namespace Sys2Proof

/-- One operation of the engine with its operands: 29 constructors for the 29 valid opcode values (R68). An operand has
the width of its field, so no `Instr` is ill-formed (R67). -/
inductive Instr where
  /-- NOP, form Z (R80). -/
  | nop
  /-- CLRF, form Z (R81). -/
  | clrf
  /-- PUSHF b, form B (R82). -/
  | pushf (b : Byte)
  /-- CLRP, form Z (R83). -/
  | clrp
  /-- PUSHP b, form B (R84). -/
  | pushp (b : Byte)
  /-- SETXN b, form B (R85). -/
  | setxn (b : Byte)
  /-- SETNODE b, form B (R86). -/
  | setnode (b : Byte)
  /-- SETCMD b, form B (R87). -/
  | setcmd (b : Byte)
  /-- CRCINIT, form Z (R92). -/
  | crcinit
  /-- CRCBYTE b, form B (R93). -/
  | crcbyte (b : Byte)
  /-- CRCF, form Z (R94). -/
  | crcf
  /-- FENC, form Z (R103). -/
  | fenc
  /-- FDEC, form Z (R110). -/
  | fdec
  /-- FCHK, form Z (R112). -/
  | fchk
  /-- VDEC.U off, form B: offset into PBUF, unsigned (R124). -/
  | vdecU (off : Byte)
  /-- VDEC.S off, form B: offset into PBUF, signed (R124). -/
  | vdecS (off : Byte)
  /-- VENC.U1 w, form V (R125). -/
  | vencU1 (w : Word32)
  /-- VENC.U2 w, form V (R125). -/
  | vencU2 (w : Word32)
  /-- VENC.U3 w, form V (R125). -/
  | vencU3 (w : Word32)
  /-- VENC.U4 w, form V (R125). -/
  | vencU4 (w : Word32)
  /-- VENC.S1 w, form V (R125). -/
  | vencS1 (w : Word32)
  /-- VENC.S2 w, form V (R125). -/
  | vencS2 (w : Word32)
  /-- VENC.S3 w, form V (R125). -/
  | vencS3 (w : Word32)
  /-- VENC.S4 w, form V (R125). -/
  | vencS4 (w : Word32)
  /-- RECV, form Z (R132). -/
  | recv
  /-- RXBYTE b, form B (R137). -/
  | rxbyte (b : Byte)
  /-- RXEND, form Z (R138). -/
  | rxend
  /-- BLDRST, form Z (R148). -/
  | bldrst
  /-- BLDRD index, subindex, form X; the index as people write it, high byte in bits 15..8 (R147). -/
  | bldrd (index : BitVec 16) (sub : Byte)
  deriving DecidableEq, Repr

/-- The 29 mnemonics of spec/opcode_table.json, without operands. -/
inductive Mnemonic where
  | nop | clrf | pushf | clrp | pushp | setxn | setnode | setcmd
  | crcinit | crcbyte | crcf
  | fenc | fdec | fchk
  | vdecU | vdecS
  | vencU1 | vencU2 | vencU3 | vencU4 | vencS1 | vencS2 | vencS3 | vencS4
  | recv | rxbyte | rxend
  | bldrst | bldrd
  deriving DecidableEq, Repr

/-- The four argument forms of R67. -/
inductive ArgForm where
  /-- no operand; all 32 argument bits must be zero -/
  | z
  /-- one byte operand in bits 7..0; bits 31..8 must be zero -/
  | b
  /-- index in bits 15..0, subindex in bits 23..16; bits 31..24 must be zero -/
  | x
  /-- a 32-bit value word; nothing must be zero -/
  | v
  deriving DecidableEq, Repr

/-- The pseudo-operations of R74. -/
inductive Pseudo where
  | rxstart | ldf | ldp | crc8 | rxchunk | resetreq | readreq
  deriving DecidableEq, Repr

/-- What a source line names: an operation or a pseudo-operation (R73, R74). -/
inductive SourceOp where
  | core (m : Mnemonic)
  | pseudo (p : Pseudo)
  deriving DecidableEq, Repr

/-- One line of assembler source after lexing: a name and its operands, still unbounded integers (R73). -/
structure SourceLine where
  op : SourceOp
  operands : List Int
  deriving DecidableEq, Repr

end Sys2Proof
end

