-- ==== Sys2Proof/WellFormed.lean ====
section
/-! DEFINITION. Which source lines are well-formed: the operand count and the operand ranges of each argument form
(R67, R73) and of each pseudo-operation (R74). An `Instr` needs no check of its own: its operands have the widths of
their fields (`Instr`), so the check stands where an operand is still an unbounded integer. -/

namespace Sys2Proof

/-- The argument form of each operation (R68). -/
def Mnemonic.form : Mnemonic → ArgForm
  | .nop => .z
  | .clrf => .z
  | .pushf => .b
  | .clrp => .z
  | .pushp => .b
  | .setxn => .b
  | .setnode => .b
  | .setcmd => .b
  | .crcinit => .z
  | .crcbyte => .b
  | .crcf => .z
  | .fenc => .z
  | .fdec => .z
  | .fchk => .z
  | .vdecU => .b
  | .vdecS => .b
  | .vencU1 => .v
  | .vencU2 => .v
  | .vencU3 => .v
  | .vencU4 => .v
  | .vencS1 => .v
  | .vencS2 => .v
  | .vencS3 => .v
  | .vencS4 => .v
  | .recv => .z
  | .rxbyte => .b
  | .rxend => .z
  | .bldrst => .z
  | .bldrd => .x

/-- A byte operand, 0 to 255 (R67 form B). -/
def isByteValue (v : Int) : Bool := decide (0 ≤ v ∧ v < 256)

/-- A 16-bit index operand (R67 form X). -/
def isIndexValue (v : Int) : Bool := decide (0 ≤ v ∧ v < 65536)

/-- The operands an argument form takes (R73): none; one byte; an index and a subindex; one integer of any size, of
which the assembler takes the low 32 bits. -/
def ArgForm.operandsWf : ArgForm → List Int → Bool
  | .z, [] => true
  | .b, [byte] => isByteValue byte
  | .x, [index, sub] => isIndexValue index && isByteValue sub
  | .v, [_] => true
  | _, _ => false

/-- The operands a pseudo-operation takes (R74). -/
def Pseudo.operandsWf : Pseudo → List Int → Bool
  | .rxstart, ops => ops.isEmpty
  | .ldf, ops => ops.all isByteValue
  | .ldp, ops => ops.all isByteValue
  | .crc8, ops => ops.all isByteValue
  | .rxchunk, ops => ops.all isByteValue
  | .resetreq, ops => ops.isEmpty
  | .readreq, ops => ArgForm.operandsWf .x ops

/-- A source line the assembler accepts (R73, R74). -/
def SourceLine.wellFormed (l : SourceLine) : Bool :=
  match l.op with
  | .core m => m.form.operandsWf l.operands
  | .pseudo p => p.operandsWf l.operands

end Sys2Proof
end

