-- ==== Sys2Proof/Decode.lean ====
section
/-! DEFINITION. Decoding an operation word in the order of R71, the encoder, and the match and mask table of
spec/opcode_table.json. Decoding is total: a word that is no operation is rejected by name. -/

namespace Sys2Proof

/-- Why a word is no operation (R71). The engine reports both as `IllegalOp`. -/
inductive IllegalWord where
  /-- the opcode is reserved (R69) -/
  | reservedOpcode (op : Byte)
  /-- the opcode is valid and a must-be-zero argument bit is 1 (R70) -/
  | mustBeZero (m : Mnemonic) (arg : Word32)
  deriving DecidableEq, Repr

/-! ### Fields -/

/-- `op = W[39:32]` (R66). -/
def opField (w : OpWord) : Byte := w.extractLsb' 32 8

/-- `arg = W[31:0]` (R66). -/
def argField (w : OpWord) : Word32 := w.extractLsb' 0 32

/-- `arg8 = arg[7:0]` (R67, form B). -/
def argByte (arg : Word32) : Byte := arg.extractLsb' 0 8

/-- The index of form X, `arg[15:0]` (R67). -/
def argIndex (arg : Word32) : BitVec 16 := arg.extractLsb' 0 16

/-- The subindex of form X, `arg[23:16]` (R67). -/
def argSub (arg : Word32) : Byte := arg.extractLsb' 16 8

/-- The bits of the argument that must be zero, form by form (R67). -/
def mustBeZeroMask : ArgForm → Word32
  | .z => 0xFFFFFFFF#32
  | .b => 0xFFFFFF00#32
  | .x => 0xFF000000#32
  | .v => 0x00000000#32

/-! ### Decoding -/

/-- The opcode map (R68); every other value is reserved (R69). -/
def lookupOpcode (op : Byte) : Option Mnemonic :=
  match op.toNat with
  | 0x00 => some .nop
  | 0x10 => some .clrf
  | 0x11 => some .pushf
  | 0x12 => some .clrp
  | 0x13 => some .pushp
  | 0x14 => some .setxn
  | 0x15 => some .setnode
  | 0x16 => some .setcmd
  | 0x20 => some .crcinit
  | 0x21 => some .crcbyte
  | 0x22 => some .crcf
  | 0x30 => some .fenc
  | 0x31 => some .fdec
  | 0x32 => some .fchk
  | 0x40 => some .vdecU
  | 0x41 => some .vdecS
  | 0x48 => some .vencU1
  | 0x49 => some .vencU2
  | 0x4A => some .vencU3
  | 0x4B => some .vencU4
  | 0x4C => some .vencS1
  | 0x4D => some .vencS2
  | 0x4E => some .vencS3
  | 0x4F => some .vencS4
  | 0x50 => some .recv
  | 0x52 => some .rxbyte
  | 0x53 => some .rxend
  | 0x60 => some .bldrst
  | 0x61 => some .bldrd
  | _ => none

/-- The operation of a mnemonic with the operands an argument carries (R67, R68). -/
def buildInstr (m : Mnemonic) (arg : Word32) : Instr :=
  match m with
  | .nop => .nop
  | .clrf => .clrf
  | .pushf => .pushf (argByte arg)
  | .clrp => .clrp
  | .pushp => .pushp (argByte arg)
  | .setxn => .setxn (argByte arg)
  | .setnode => .setnode (argByte arg)
  | .setcmd => .setcmd (argByte arg)
  | .crcinit => .crcinit
  | .crcbyte => .crcbyte (argByte arg)
  | .crcf => .crcf
  | .fenc => .fenc
  | .fdec => .fdec
  | .fchk => .fchk
  | .vdecU => .vdecU (argByte arg)
  | .vdecS => .vdecS (argByte arg)
  | .vencU1 => .vencU1 arg
  | .vencU2 => .vencU2 arg
  | .vencU3 => .vencU3 arg
  | .vencU4 => .vencU4 arg
  | .vencS1 => .vencS1 arg
  | .vencS2 => .vencS2 arg
  | .vencS3 => .vencS3 arg
  | .vencS4 => .vencS4 arg
  | .recv => .recv
  | .rxbyte => .rxbyte (argByte arg)
  | .rxend => .rxend
  | .bldrst => .bldrst
  | .bldrd => .bldrd (argIndex arg) (argSub arg)

/-- Decoding in the order of R71: the opcode, then the must-be-zero bits of its form, then the operands. -/
def decode (w : OpWord) : Except IllegalWord Instr :=
  match lookupOpcode (opField w) with
  | none => .error (.reservedOpcode (opField w))
  | some m =>
    if argField w &&& mustBeZeroMask m.form = 0#32 then .ok (buildInstr m (argField w))
    else .error (.mustBeZero m (argField w))

/-! ### Encoding -/

/-- The opcode of each mnemonic (R68). -/
def opcodeOf : Mnemonic → Byte
  | .nop => 0x00#8
  | .clrf => 0x10#8
  | .pushf => 0x11#8
  | .clrp => 0x12#8
  | .pushp => 0x13#8
  | .setxn => 0x14#8
  | .setnode => 0x15#8
  | .setcmd => 0x16#8
  | .crcinit => 0x20#8
  | .crcbyte => 0x21#8
  | .crcf => 0x22#8
  | .fenc => 0x30#8
  | .fdec => 0x31#8
  | .fchk => 0x32#8
  | .vdecU => 0x40#8
  | .vdecS => 0x41#8
  | .vencU1 => 0x48#8
  | .vencU2 => 0x49#8
  | .vencU3 => 0x4A#8
  | .vencU4 => 0x4B#8
  | .vencS1 => 0x4C#8
  | .vencS2 => 0x4D#8
  | .vencS3 => 0x4E#8
  | .vencS4 => 0x4F#8
  | .recv => 0x50#8
  | .rxbyte => 0x52#8
  | .rxend => 0x53#8
  | .bldrst => 0x60#8
  | .bldrd => 0x61#8

/-- The argument of form B: the byte zero-extended (R67). -/
def packByte (b : Byte) : Word32 := b.setWidth 32

/-- The argument of form X: zero, subindex, index (R67). -/
def packIndex (index : BitVec 16) (sub : Byte) : Word32 := 0x00#8 ++ sub ++ index

/-- The mnemonic of an operation. -/
def mnemonicOf : Instr → Mnemonic
  | .nop => .nop
  | .clrf => .clrf
  | .pushf _ => .pushf
  | .clrp => .clrp
  | .pushp _ => .pushp
  | .setxn _ => .setxn
  | .setnode _ => .setnode
  | .setcmd _ => .setcmd
  | .crcinit => .crcinit
  | .crcbyte _ => .crcbyte
  | .crcf => .crcf
  | .fenc => .fenc
  | .fdec => .fdec
  | .fchk => .fchk
  | .vdecU _ => .vdecU
  | .vdecS _ => .vdecS
  | .vencU1 _ => .vencU1
  | .vencU2 _ => .vencU2
  | .vencU3 _ => .vencU3
  | .vencU4 _ => .vencU4
  | .vencS1 _ => .vencS1
  | .vencS2 _ => .vencS2
  | .vencS3 _ => .vencS3
  | .vencS4 _ => .vencS4
  | .recv => .recv
  | .rxbyte _ => .rxbyte
  | .rxend => .rxend
  | .bldrst => .bldrst
  | .bldrd _ _ => .bldrd

/-- The argument an operation's operands make (R67). -/
def argOf : Instr → Word32
  | .nop => 0#32
  | .clrf => 0#32
  | .pushf b => packByte b
  | .clrp => 0#32
  | .pushp b => packByte b
  | .setxn b => packByte b
  | .setnode b => packByte b
  | .setcmd b => packByte b
  | .crcinit => 0#32
  | .crcbyte b => packByte b
  | .crcf => 0#32
  | .fenc => 0#32
  | .fdec => 0#32
  | .fchk => 0#32
  | .vdecU off => packByte off
  | .vdecS off => packByte off
  | .vencU1 w => w
  | .vencU2 w => w
  | .vencU3 w => w
  | .vencU4 w => w
  | .vencS1 w => w
  | .vencS2 w => w
  | .vencS3 w => w
  | .vencS4 w => w
  | .recv => 0#32
  | .rxbyte b => packByte b
  | .rxend => 0#32
  | .bldrst => 0#32
  | .bldrd index sub => packIndex index sub

/-- The operation word of an operation (R66). -/
def encode (i : Instr) : OpWord := opcodeOf (mnemonicOf i) ++ argOf i

/-! ### The match and mask table -/

/-- One row of spec/opcode_table.json. -/
structure TableRow where
  mnemonic : Mnemonic
  pattern : OpWord
  mask : OpWord
  deriving DecidableEq, Repr

/-- The mask of an argument form: the opcode bits and the must-be-zero bits (R71). -/
def rowMask : ArgForm → OpWord
  | .z => 0xFFFFFFFFFF#40
  | .b => 0xFFFFFFFF00#40
  | .x => 0xFFFF000000#40
  | .v => 0xFF00000000#40

/-- spec/opcode_table.json, its 29 rows in its order; the mask is that of the row's "format". -/
def opcodeTable : List TableRow :=
  [ ⟨.nop, 0x0000000000#40, rowMask .z⟩, ⟨.clrf, 0x1000000000#40, rowMask .z⟩,
    ⟨.pushf, 0x1100000000#40, rowMask .b⟩, ⟨.clrp, 0x1200000000#40, rowMask .z⟩,
    ⟨.pushp, 0x1300000000#40, rowMask .b⟩, ⟨.setxn, 0x1400000000#40, rowMask .b⟩,
    ⟨.setnode, 0x1500000000#40, rowMask .b⟩, ⟨.setcmd, 0x1600000000#40, rowMask .b⟩,
    ⟨.crcinit, 0x2000000000#40, rowMask .z⟩, ⟨.crcbyte, 0x2100000000#40, rowMask .b⟩,
    ⟨.crcf, 0x2200000000#40, rowMask .z⟩, ⟨.fenc, 0x3000000000#40, rowMask .z⟩,
    ⟨.fdec, 0x3100000000#40, rowMask .z⟩, ⟨.fchk, 0x3200000000#40, rowMask .z⟩,
    ⟨.vdecU, 0x4000000000#40, rowMask .b⟩, ⟨.vdecS, 0x4100000000#40, rowMask .b⟩ ]
  ++
  [ ⟨.vencU1, 0x4800000000#40, rowMask .v⟩, ⟨.vencU2, 0x4900000000#40, rowMask .v⟩,
    ⟨.vencU3, 0x4A00000000#40, rowMask .v⟩, ⟨.vencU4, 0x4B00000000#40, rowMask .v⟩,
    ⟨.vencS1, 0x4C00000000#40, rowMask .v⟩, ⟨.vencS2, 0x4D00000000#40, rowMask .v⟩,
    ⟨.vencS3, 0x4E00000000#40, rowMask .v⟩, ⟨.vencS4, 0x4F00000000#40, rowMask .v⟩,
    ⟨.recv, 0x5000000000#40, rowMask .z⟩, ⟨.rxbyte, 0x5200000000#40, rowMask .b⟩,
    ⟨.rxend, 0x5300000000#40, rowMask .z⟩, ⟨.bldrst, 0x6000000000#40, rowMask .z⟩,
    ⟨.bldrd, 0x6100000000#40, rowMask .x⟩ ]

/-- A word matches a row when `(W & mask) == match` (R71). -/
def TableRow.admits (r : TableRow) (w : OpWord) : Prop := w &&& r.mask = r.pattern

/-! ### The numbering of spec/opcode_table.json -/

/-- The operation word whose bits are the low `nbits` bits of `w`, numbered as the opcode table numbers them. The
engine has one word of 40 bits per operation and no byte order of fetch (R46, R66). -/
def tableWord (nbits w : Nat) : OpWord := BitVec.ofNat 40 (w % 2 ^ nbits)

/-- The operation the decoder reads from a word numbered as in the opcode table. -/
def decodeTableWord (nbits w : Nat) : Option Instr := (decode (tableWord nbits w)).toOption

end Sys2Proof
end

