-- ==== Sys2Proof/Config.lean ====
section
/-! DEFINITION. The constants the spec fixes (R5), the two capacities with the value this hardware takes (R6),
and the free values of what the spec leaves unspecified on the read port (U2, U3). -/

namespace Sys2Proof

/-- `CRC_POLY`: XORed in after a right shift that dropped a 1 (R5). -/
def Config.crcPoly : Byte := 0xD5#8

/-- `CRC_INIT`: the accumulator before the first byte (R5). -/
def Config.crcInit : Byte := 0xFF#8

/-- `START_MARKER`, first byte of a frame (R5). -/
def Config.startMarker : Byte := 0x53#8

/-- `END_MARKER`, last byte of a frame (R5). -/
def Config.endMarker : Byte := 0x45#8

/-- `UDL_BIAS`: `user_data_length = 4 + len(payload)` (R5). -/
def Config.udlBias : Nat := 4

/-- `MIN_FRAME`: shortest frame, with an empty payload (R5). -/
def Config.minFrame : Nat := 6

/-- `MAX_PAYLOAD`: the bound that Encode alone enforces (R5, R7, R102). -/
def Config.maxPayload : Nat := 58

/-- `CMD_RESET`: protocol command "soft reset" (R5). -/
def Config.cmdReset : Byte := 0x00#8

/-- `CMD_READ`: protocol command "parameter read request/response" (R5). -/
def Config.cmdRead : Byte := 0x01#8

/-- `VAL_MAX_BYTES`: widest value the value codec handles (R6). -/
def Config.valMaxBytes : Nat := 4

/-- `FCAP`: capacity of FBUF. The spec allows 6 to 255 and gives this hardware 64 (R6; log entry 7). -/
def Config.fcap : Nat := 64

/-- `PCAP`: capacity of PBUF. The spec allows 58 to 255 and gives this hardware 64 (R6; log entry 7). -/
def Config.pcap : Nat := 64

/-- FREE VALUE (U2, U3; log entry 9): what `rd_data` carries where the spec leaves it unspecified. The argument is
the instant of the read, so that two such reads need not agree. -/
opaque Config.unspecifiedReadData : Nat → BitVec 32

/-- FREE VALUE (U3; log entry 9): what `rd_valid` carries in a read while `busy = 1`. -/
opaque Config.unspecifiedReadValid : Nat → Bool

end Sys2Proof
end

