-- ==== Sys2Proof/Machine/State.lean ====
section
/-! DEFINITION. The state of the engine as plain data: the eleven items of R10, and the model's own list of what the
ports carry at the coming clock edges. The value types of STATUS and RXS, and the reasons a step can stop. -/

namespace Sys2Proof.Machine

/-- The thirteen error kinds, codes 1 to 13 (R13, R150). -/
inductive ErrorKind where
  /-- 1: FENC with more than 58 payload bytes (R151) -/
  | payloadTooLarge
  /-- 2: the receiver got an empty buffer (R152) -/
  | noData
  /-- 3: no 0x53 anywhere in the buffer (R153) -/
  | noStartMarker
  /-- 4: shorter than the minimum frame (R154) -/
  | truncated
  /-- 5: start or end marker wrong (R155) -/
  | badDelimiter
  /-- 6: declared length against actual length (R156) -/
  | lengthMismatch
  /-- 7: frame for another node (R158) -/
  | wrongNode
  /-- 8: CRC-8 verification failed (R159) -/
  | checksumMismatch
  /-- 9: a numeric value from zero bytes (R160) -/
  | emptyValue
  /-- 10: an integer that does not fit the bytes asked for (R161) -/
  | valueRange
  /-- 11: five or more value bytes (R162) -/
  | valueTooWide
  /-- 12: no room to append (R163) -/
  | bufferOverflow
  /-- 13: reserved opcode or a must-be-zero bit set (R164) -/
  | illegalOp
  deriving DecidableEq, Repr

/-- The values of STATUS (R13). Code 14 is never written, so the type does not contain it (U7). -/
inductive Status where
  /-- 0: the operation completed -/
  | ok
  /-- 1 to 13: the operation failed with this kind -/
  | error (k : ErrorKind)
  /-- 15 `NONE`: no operation has completed since reset -/
  | none
  deriving DecidableEq, Repr

/-- The values of RXS, the state of the byte-at-a-time receiver (R21, R136). -/
inductive RxState where
  /-- 0 `RX_EMPTY`: no byte of the current chunk received -/
  | empty
  /-- 1 `RX_HUNT`: at least one byte received, none equal to 0x53 -/
  | hunt
  /-- 2 `RX_SYNC`: a start marker was received -/
  | sync
  /-- 3 `RX_OVF`: more bytes arrived in RX_SYNC than FBUF holds -/
  | ovf
  deriving DecidableEq, Repr

/-- The fields of a decoded frame: the tuple `decode_frame` returns (R109). -/
structure Frame where
  node : Byte
  command : Byte
  payload : List Byte
  checksum : Byte
  deriving DecidableEq, Repr

/-- What the ports carry at one rising edge of `clk` (R30). `opReady` is the engine's own output: how long an operation
keeps it 0 is implementation defined (R189), so each coming edge says it (log entry 3). -/
structure Edge where
  rst : Bool
  opValid : Bool
  opReady : Bool
  opWord : OpWord
  deriving DecidableEq, Repr

/-- The registers an operation may read while they hold no value (R12). -/
inductive OperandReg where
  /-- read by FDEC, FCHK, RECV, RXEND -/
  | xnode
  /-- read by FENC -/
  | node
  /-- read by FENC -/
  | cmd
  deriving DecidableEq, Repr

/-- Reasons the machine stops with a fault. There is none: every error of the engine is a next state with STATUS
written, and no operation can hang (R150, R167, R190). Safe: the type being empty, no run is cut short (log entry 14). -/
inductive Fault
  deriving DecidableEq, Repr

/-- Reasons a step has no meaning. -/
inductive Refusal where
  /-- Raised by `exec` for an instruction that has no meaning yet; no arm does. Safe: nothing is claimed of it. -/
  | notModelled (mnemonic : String)
  /-- Raised by FENC, FDEC, FCHK, RECV, RXEND when an operand register holds no value: the spec says that the model gives
  that step no meaning and must pick no bit pattern (R12, R171, R187 (a), U1, D6). Safe: nothing is claimed of the run
  afterwards. -/
  | noValue (r : OperandReg)
  deriving DecidableEq, Repr

/-- The state of the engine (R10). A register that may hold no value is an `Option`, as U1 says; `none` is the spec's own
state "holds no value" (R12). PLEN and FLEN are the lengths of the buffers (R11, R24). -/
structure State where
  /-- STATUS, register 0x0 (R13) -/
  status : Status
  /-- ACC, register 0x1 (R15) -/
  acc : Byte
  /-- XNODE, register 0x2 (R14) -/
  xnode : Option Byte
  /-- NODE, register 0x3 (R16) -/
  node : Option Byte
  /-- CMD, register 0x4 (R17) -/
  cmd : Option Byte
  /-- CSUM, register 0x5 (R18) -/
  csum : Option Byte
  /-- VAL, register 0xA (R19) -/
  val : Option Word32
  /-- VW, register 0xB, 3 bits (R20) -/
  vw : Option (BitVec 3)
  /-- RXS, register 0x9 (R21) -/
  rxs : RxState
  /-- PBUF, read space 1 (R22) -/
  pbuf : List Byte
  /-- FBUF, read space 2 (R23) -/
  fbuf : List Byte
  /-- The model's own field: what the ports carry at the coming edges, the next one first (log entry 1). -/
  inputs : List Edge
  deriving DecidableEq, Repr

/-- The machine right after reset (R31, R175); nothing is driven on the ports (log entry 1). -/
def State.reset : State where
  status := .none
  acc := 0xFF#8
  xnode := Option.none
  node := Option.none
  cmd := Option.none
  csum := Option.none
  val := Option.none
  vw := Option.none
  rxs := .empty
  pbuf := []
  fbuf := []
  inputs := []

/-- What a meaning or a step answers. -/
abbrev Result := Host.Outcome State Fault Refusal

end Sys2Proof.Machine
end

