-- ==== Sys2Proof/Machine/Flags.lean ====
section
/-! DEFINITION. The numeric codes of the outcome register STATUS and of RXS (R13, R21, R72). The engine has no condition
codes: STATUS is its only outcome indicator (R26). -/

namespace Sys2Proof.Machine

/-- The STATUS code of an error kind (R13, R150). -/
def errorCode : ErrorKind → BitVec 4
  | .payloadTooLarge => 1#4
  | .noData => 2#4
  | .noStartMarker => 3#4
  | .truncated => 4#4
  | .badDelimiter => 5#4
  | .lengthMismatch => 6#4
  | .wrongNode => 7#4
  | .checksumMismatch => 8#4
  | .emptyValue => 9#4
  | .valueRange => 10#4
  | .valueTooWide => 11#4
  | .bufferOverflow => 12#4
  | .illegalOp => 13#4

/-- The 4-bit code STATUS presents (R13). -/
def statusCode : Status → BitVec 4
  | .ok => 0#4
  | .error k => errorCode k
  | .none => 15#4

/-- The 2-bit code RXS presents (R21). -/
def rxCode : RxState → BitVec 2
  | .empty => 0#2
  | .hunt => 1#2
  | .sync => 2#2
  | .ovf => 3#2

/-- The STATUS an outcome writes: 0 on success, the code of the kind on failure (R150). -/
def outcomeStatus {α : Type} : Except ErrorKind α → Status
  | .ok _ => .ok
  | .error k => .error k

end Sys2Proof.Machine
end

