-- ==== Sys2Proof/Machine/Operands.lean ====
section
/-! DEFINITION. The operands of operations: registers that may hold no value (R12), the value bytes of VDEC (R124), the
value word of VENC (R125), bytes and slices of a sequence (00_scope.md, Notation). -/

namespace Sys2Proof.Machine

/-- `XNODE` as an operand: refused when it holds no value (R12, R110, R112, R132, R138, U1). -/
def withXnode (s : State) (k : Byte → Result) : Result :=
  match s.xnode with
  | some x => k x
  | none => .refused (.noValue .xnode)

/-- `NODE` as an operand: refused when it holds no value (R12, R103, U1). -/
def withNode (s : State) (k : Byte → Result) : Result :=
  match s.node with
  | some n => k n
  | none => .refused (.noValue .node)

/-- `CMD` as an operand: refused when it holds no value (R12, R103, U1). -/
def withCmd (s : State) (k : Byte → Result) : Result :=
  match s.cmd with
  | some c => k c
  | none => .refused (.noValue .cmd)

/-- `s[i]` for an index in range. Every use is in range (R107, R165), so the answer past the end is never used (log
entry 15). -/
def byteAt (bytes : List Byte) (i : Nat) : Byte := bytes.getD i 0#8

/-- `s[a..b)`, half-open (00_scope.md, Notation; 90_conflicts.md C2). -/
def slice (bytes : List Byte) (a b : Nat) : List Byte := (bytes.take b).drop a

/-- `PBUF[off..PLEN)`, the value bytes of VDEC; empty when `off >= PLEN` (R124). -/
def valueBytes (s : State) (off : Byte) : List Byte := s.pbuf.drop off.toNat

/-- The value word of VENC, read as 32-bit two's complement or as unsigned (R125). -/
def wordValue (signed : Bool) (w : Word32) : Int := if signed then w.toInt else (w.toNat : Int)

end Sys2Proof.Machine
end

