-- ==== Sys2Proof/Machine/Ops.lean ====
section
/-! DEFINITION. The named operations over the registers and the two buffers. An error is taken in one place, `raise`:
the write of STATUS and nothing else (R167); invalidating the destinations (R157) stands beside it. -/

namespace Sys2Proof.Machine

/-! ### One write per item of R10 -/

/-- `STATUS <- v`. -/
def State.setStatus (v : Status) (s : State) : State := { s with status := v }

/-- `ACC <- v`. -/
def State.setAcc (v : Byte) (s : State) : State := { s with acc := v }

/-- `XNODE <- v`, or `XNODE <- none`. -/
def State.setXnode (v : Option Byte) (s : State) : State := { s with xnode := v }

/-- `NODE <- v`, or `NODE <- none`. -/
def State.setNode (v : Option Byte) (s : State) : State := { s with node := v }

/-- `CMD <- v`, or `CMD <- none`. -/
def State.setCmd (v : Option Byte) (s : State) : State := { s with cmd := v }

/-- `CSUM <- v`, or `CSUM <- none`. -/
def State.setCsum (v : Option Byte) (s : State) : State := { s with csum := v }

/-- `VAL <- v`, or `VAL <- none`. -/
def State.setVal (v : Option Word32) (s : State) : State := { s with val := v }

/-- `VW <- v`, or `VW <- none`. -/
def State.setVw (v : Option (BitVec 3)) (s : State) : State := { s with vw := v }

/-- `RXS <- v`. -/
def State.setRxs (v : RxState) (s : State) : State := { s with rxs := v }

/-- `PBUF <- v`. -/
def State.setPbuf (v : List Byte) (s : State) : State := { s with pbuf := v }

/-- `FBUF <- v`. -/
def State.setFbuf (v : List Byte) (s : State) : State := { s with fbuf := v }

/-- The model writes its own list of coming edges. -/
def State.setInputs (v : List Edge) (s : State) : State := { s with inputs := v }

/-! ### Ending an operation -/

/-- `status OK` (00_scope.md, Notation). -/
def succeed (s : State) : State := s.setStatus .ok

/-- `raise E`: STATUS is written with the code of `E`, last. Nothing is saved, no mode changes and no handler is entered
(R157, R167); there is no return operation. -/
def raise (k : ErrorKind) (s : State) : State := s.setStatus (.error k)

/-- The destinations of FDEC, RECV and RXEND after a failure (R157): no fabricated value. -/
def invalidateDecode (s : State) : State :=
  (((s.setNode none).setCmd none).setCsum none).setPbuf []

/-- The destinations of VDEC after a failure (R157). -/
def invalidateValue (s : State) : State := (s.setVal none).setVw none

/-- The end that FDEC, RECV and RXEND share (R110, R132, R138): the tuple into NODE, CMD, PBUF and CSUM, or all four
invalidated and the kind raised. -/
def deliver (r : Except ErrorKind Frame) (s : State) : State :=
  match r with
  | .ok f => succeed ((((s.setNode (some f.node)).setCmd (some f.command)).setPbuf f.payload).setCsum (some f.checksum))
  | .error k => raise k (invalidateDecode s)

/-! ### Appending (R56, R163) -/

/-- Append one byte to FBUF, or `BufferOverflow` with FBUF as it was. -/
def appendFbuf (b : Byte) (s : State) : State :=
  if s.fbuf.length = Config.fcap then raise .bufferOverflow s else succeed (s.setFbuf (s.fbuf ++ [b]))

/-- Append one byte to PBUF, or `BufferOverflow` with PBUF as it was. -/
def appendPbuf (b : Byte) (s : State) : State :=
  if s.pbuf.length = Config.pcap then raise .bufferOverflow s else succeed (s.setPbuf (s.pbuf ++ [b]))

/-- Append several bytes to PBUF, all or none of them (R125, R163). -/
def appendValue (bytes : List Byte) (s : State) : State :=
  if s.pbuf.length + bytes.length > Config.pcap then raise .bufferOverflow s
  else succeed (s.setPbuf (s.pbuf ++ bytes))

/-! ### The ports -/

/-- The effect of `rst` at an edge: every item takes its reset value (R31, R175). The edges still to come are not state of
the engine and stay. -/
def applyReset (s : State) : State := State.reset.setInputs s.inputs

/-- A word is accepted at an edge where `op_valid` and `op_ready` are both 1 (R30). -/
def Edge.accepts (e : Edge) : Bool := e.opValid && e.opReady

/-- The edge at which the host presents the word `w` and the engine takes it. -/
def issueEdge (w : OpWord) : Edge := { rst := false, opValid := true, opReady := true, opWord := w }

/-- The form of the two buffers: neither holds more than its capacity (R33). A buffer is the sequence of its bytes and
nothing else, so equal contents are equal lists (R11). -/
def Memory.wf (s : State) : Bool :=
  decide (s.pbuf.length ≤ Config.pcap) && decide (s.fbuf.length ≤ Config.fcap)

end Sys2Proof.Machine
end

