-- ==== Sys2Proof/Machine/BufferAccess.lean ====
section
/-! DEFINITION. Buffer and register access (40_buffer_access.md): NOP, CLRF, PUSHF, CLRP, PUSHP, SETXN, SETNODE, SETCMD. -/

namespace Sys2Proof.Machine

/-- NOP: nothing, STATUS is not written either (R80). -/
def execNop (s : State) : Result := .next s

/-- CLRF: FBUF emptied, RXS to RX_EMPTY (R81). -/
def execClrf (s : State) : Result := .next (succeed ((s.setFbuf []).setRxs .empty))

/-- PUSHF b (R82). -/
def execPushf (b : Byte) (s : State) : Result := .next (appendFbuf b s)

/-- CLRP: PBUF emptied, CMD untouched (R83). -/
def execClrp (s : State) : Result := .next (succeed (s.setPbuf []))

/-- PUSHP b (R84). -/
def execPushp (b : Byte) (s : State) : Result := .next (appendPbuf b s)

/-- SETXN b (R85). -/
def execSetxn (b : Byte) (s : State) : Result := .next (succeed (s.setXnode (some b)))

/-- SETNODE b (R86). -/
def execSetnode (b : Byte) (s : State) : Result := .next (succeed (s.setNode (some b)))

/-- SETCMD b (R87). -/
def execSetcmd (b : Byte) (s : State) : Result := .next (succeed (s.setCmd (some b)))

end Sys2Proof.Machine
end

