-- ==== Sys2Proof/Machine/CommandBuilder.lean ====
section
/-! DEFINITION. The command builder (45_command_builder.md): `build_read_request`, `build_reset`, BLDRST, BLDRD. Neither
can fail (R149), and nothing else is built, compared or remembered (R144). -/

namespace Sys2Proof.Machine

/-- `build_read_request(index_high, index_low, subindex)`: payload low byte first, and the command code (R145). -/
def buildReadRequest (indexHigh indexLow sub : Byte) : List Byte × Byte :=
  ([indexLow, indexHigh, sub], Config.cmdRead)

/-- `build_reset()`: the empty payload and the command code (R146). -/
def buildReset : List Byte × Byte := ([], Config.cmdReset)

/-- Both builders replace PBUF and write CMD (R147, R148). -/
def placeCommand (built : List Byte × Byte) (s : State) : State :=
  succeed ((s.setPbuf built.1).setCmd (some built.2))

/-- BLDRST (R148). -/
def execBldrst (s : State) : Result := .next (placeCommand buildReset s)

/-- BLDRD index, subindex; `index_high` is bits 15..8 of the index (R147). -/
def execBldrd (index : BitVec 16) (sub : Byte) (s : State) : Result :=
  .next (placeCommand (buildReadRequest (index.extractLsb' 8 8) (index.extractLsb' 0 8) sub) s)

end Sys2Proof.Machine
end

