-- ==== Sys2Proof/Machine/Crc8.lean ====
section
/-! DEFINITION. The CRC-8 engine (41_crc8.md): the functions of R90 and CRCINIT, CRCBYTE, CRCF. -/

namespace Sys2Proof.Machine

/-- One step on the accumulator: a right shift, and the constant XORed in when the bit shifted out is 1 (R90). -/
def crcBit (a : Byte) : Byte := if a.getLsbD 0 then (a >>> 1) ^^^ Config.crcPoly else a >>> 1

/-- `crcBit` applied `n` times. -/
def crcSteps : Nat → Byte → Byte
  | 0, a => a
  | n + 1, a => crcSteps n (crcBit a)

/-- One byte into the accumulator: XOR, then eight steps (R90). -/
def crcByte (a b : Byte) : Byte := crcSteps 8 (a ^^^ b)

/-- The bytes of a sequence into the accumulator, index 0 first (R90). -/
def crcFold : Byte → List Byte → Byte
  | a, [] => a
  | a, b :: bs => crcFold (crcByte a b) bs

/-- The checksum of a byte sequence (R90); total, no final XOR (R91). -/
def crc8 (bytes : List Byte) : Byte := crcFold Config.crcInit bytes

/-- CRCINIT (R92). -/
def execCrcinit (s : State) : Result := .next (succeed (s.setAcc Config.crcInit))

/-- CRCBYTE b (R93). -/
def execCrcbyte (b : Byte) (s : State) : Result := .next (succeed (s.setAcc (crcByte s.acc b)))

/-- CRCF: the checksum of all of FBUF, whatever ACC held (R94). -/
def execCrcf (s : State) : Result := .next (succeed (s.setAcc (crc8 s.fbuf)))

end Sys2Proof.Machine
end

