-- ==== Sys2Proof/Machine/FrameCodec.lean ====
section
/-! DEFINITION. The frame codec (42_frame_codec.md): `encode_frame`, `decode_frame`, `is_valid_frame`, and FENC, FDEC,
FCHK. Lengths are natural numbers, they do not wrap at 8 bits (R117). -/

namespace Sys2Proof.Machine

/-- The bytes the checksum covers: `[user_data_length, node_id, command] ++ payload` (R60, R101). -/
def frameBody (node command : Byte) (payload : List Byte) : List Byte :=
  BitVec.ofNat 8 (payload.length + Config.udlBias) :: node :: command :: payload

/-- The frame of a body: markers and checksum around it (R101). -/
def frameOf (node command : Byte) (payload : List Byte) : List Byte :=
  Config.startMarker :: frameBody node command payload ++ [crc8 (frameBody node command payload), Config.endMarker]

/-- `encode_frame`: fails exactly when the payload is longer than 58 bytes (R101, R102). -/
def encodeFrame (node command : Byte) (payload : List Byte) : Except ErrorKind (List Byte) :=
  if payload.length > Config.maxPayload then .error .payloadTooLarge else .ok (frameOf node command payload)

/-- `decode_frame`: the five checks in their order, the first that fails decides the kind (R104, R105); then the fields
(R109). There is no sixth check (R108). -/
def decodeFrame (raw : List Byte) (expected : Byte) : Except ErrorKind Frame :=
  if raw.length < Config.minFrame then .error .truncated
  else if byteAt raw 0 ≠ Config.startMarker ∨ byteAt raw (raw.length - 1) ≠ Config.endMarker then
    .error .badDelimiter
  else if raw.length ≠ (byteAt raw 1).toNat + 2 then .error .lengthMismatch
  else if byteAt raw 2 ≠ expected then .error .wrongNode
  else if byteAt raw (byteAt raw 1).toNat ≠ crc8 (slice raw 1 (byteAt raw 1).toNat) then
    .error .checksumMismatch
  else .ok
    { node := byteAt raw 2
      command := byteAt raw 3
      payload := slice raw 4 (byteAt raw 1).toNat
      checksum := byteAt raw (byteAt raw 1).toNat }

/-- `is_valid_frame`: `decode_frame` succeeds (R111). -/
def isValidFrame (raw : List Byte) (expected : Byte) : Bool := (decodeFrame raw expected).isOk

/-- What FENC does with its operands (R103): RXS to RX_EMPTY in both outcomes; FBUF and CSUM written, or FBUF emptied and
CSUM invalidated. CSUM is `FBUF[PLEN + 4]`. -/
def placeFrame (node command : Byte) (s : State) : State :=
  match encodeFrame node command s.pbuf with
  | .ok frame => succeed (((s.setRxs .empty).setFbuf frame).setCsum frame[s.pbuf.length + 4]?)
  | .error k => raise k (((s.setRxs .empty).setFbuf []).setCsum none)

/-- FENC: refused when NODE or CMD holds no value (R103). -/
def execFenc (s : State) : Result :=
  withNode s fun node => withCmd s fun command => .next (placeFrame node command s)

/-- FDEC: refused when XNODE holds no value (R110). -/
def execFdec (s : State) : Result :=
  withXnode s fun x => .next (deliver (decodeFrame s.fbuf x) s)

/-- FCHK: the verdict of `decode_frame` in STATUS and nothing else (R112). -/
def execFchk (s : State) : Result :=
  withXnode s fun x => .next (s.setStatus (outcomeStatus (decodeFrame s.fbuf x)))

end Sys2Proof.Machine
end

