-- ==== Sys2Proof/Machine/StreamReceiver.lean ====
section
/-! DEFINITION. The stream receiver (44_stream_receiver.md): the function `receive`, RECV, and the byte-at-a-time state
machine RXBYTE, RXEND. Only the first 0x53 is tried and nothing is carried to a later chunk (R133, R141). -/

namespace Sys2Proof.Machine

/-- `buf[i..len)` with `i` the least index of 0x53; empty when there is no 0x53 (R131 steps 2 and 3). -/
def fromStartMarker (buf : List Byte) : List Byte := buf.dropWhile fun b => b != Config.startMarker

/-- `receive` (R131). -/
def receive (buf : List Byte) (expected : Byte) : Except ErrorKind Frame :=
  if buf = [] then .error .noData
  else if fromStartMarker buf = [] then .error .noStartMarker
  else decodeFrame (fromStartMarker buf) expected

/-- RECV: RXS to RX_EMPTY, FBUF becomes the slice from the first 0x53, or empty when there is none (R132). -/
def execRecv (s : State) : Result :=
  withXnode s fun x =>
    .next (deliver (receive s.fbuf x) ((s.setRxs .empty).setFbuf (fromStartMarker s.fbuf)))

/-- The first byte of a chunk, or a byte while hunting: FBUF is replaced (R137). -/
def huntByte (b : Byte) (s : State) : State :=
  if b = Config.startMarker then succeed ((s.setFbuf [Config.startMarker]).setRxs .sync)
  else succeed ((s.setFbuf []).setRxs .hunt)

/-- A byte after the start marker: kept, or dropped with `BufferOverflow` when FBUF is full (R137). -/
def syncByte (b : Byte) (s : State) : State :=
  if s.fbuf.length = Config.fcap then raise .bufferOverflow (s.setRxs .ovf)
  else succeed (s.setFbuf (s.fbuf ++ [b]))

/-- One transition of the receiver on a byte (R136, R137). -/
def receiveByte (b : Byte) (s : State) : State :=
  match s.rxs with
  | .empty => huntByte b s
  | .hunt => huntByte b s
  | .sync => syncByte b s
  | .ovf => raise .bufferOverflow s

/-- RXBYTE b; XNODE is not read, so it is never refused (R137). -/
def execRxbyte (b : Byte) (s : State) : Result := .next (receiveByte b s)

/-- The verdict on a chunk, by the state of the receiver (R136, R138). -/
def chunkVerdict (s : State) (expected : Byte) : Except ErrorKind Frame :=
  match s.rxs with
  | .empty => .error .noData
  | .hunt => .error .noStartMarker
  | .sync => decodeFrame s.fbuf expected
  | .ovf => .error .bufferOverflow

/-- RXEND: the verdict delivered, RXS to RX_EMPTY, FBUF kept (R138). -/
def execRxend (s : State) : Result :=
  withXnode s fun x => .next (deliver (chunkVerdict s x) (s.setRxs .empty))

end Sys2Proof.Machine
end

