-- ==== Sys2Proof/Machine/ValueCodec.lean ====
section
/-! DEFINITION. The value codec (43_value_codec.md): `decode_value`, `fits`, `encode_value`, and VDEC.U, VDEC.S,
VENC.U1 to VENC.S4. All arithmetic is over unbounded integers (R128). -/

namespace Sys2Proof.Machine

/-- The little-endian unsigned magnitude of a byte sequence (R42, R121). -/
def magnitude : List Byte → Nat
  | [] => 0
  | b :: bs => b.toNat + 256 * magnitude bs

/-- `decode_value`, defined for every non-empty sequence (R121); `EmptyValue` for the empty one (R122). The sign is bit 7
of the last byte (R127). -/
def decodeValue (bytes : List Byte) (signed : Bool) : Except ErrorKind Int :=
  match bytes.getLast? with
  | none => .error .emptyValue
  | some top =>
    if signed && top.getLsbD 7 then .ok ((magnitude bytes : Int) - 2 ^ (8 * bytes.length))
    else .ok (magnitude bytes : Int)

/-- `fits`: the integer is representable in `n` bytes with the chosen signedness (R129). -/
def fits (v : Int) (n : Nat) (signed : Bool) : Bool :=
  if signed then decide (-(2 ^ (8 * n - 1)) ≤ v ∧ v < 2 ^ (8 * n - 1)) else decide (0 ≤ v ∧ v < 2 ^ (8 * n))

/-- The `n` low bytes of a natural number, least significant first. -/
def littleEndian : Nat → Nat → List Byte
  | 0, _ => []
  | n + 1, m => BitVec.ofNat 8 m :: littleEndian n (m / 256)

/-- `encode_value`, defined where the integer fits (R129). -/
def encodeValue (v : Int) (n : Nat) (signed : Bool) : Option (List Byte) :=
  if fits v n signed then some (littleEndian n (v % 2 ^ (8 * n)).toNat) else none

/-- VDEC with signedness `signed` (R123, R124): VAL is `V mod 2^32`, VW the number of bytes. -/
def decodeValueAt (signed : Bool) (off : Byte) (s : State) : State :=
  if (valueBytes s off).length > Config.valMaxBytes then raise .valueTooWide (invalidateValue s)
  else
    match decodeValue (valueBytes s off) signed with
    | .error k => raise k (invalidateValue s)
    | .ok v => succeed ((s.setVal (some (BitVec.ofInt 32 v))).setVw (some (BitVec.ofNat 3 (valueBytes s off).length)))

/-- VENC with width `n` and signedness `signed` (R125): `ValueRange` is tested first, then the room in PBUF. -/
def appendEncoded (n : Nat) (signed : Bool) (w : Word32) (s : State) : State :=
  match encodeValue (wordValue signed w) n signed with
  | none => raise .valueRange s
  | some bytes => appendValue bytes s

/-- VDEC.U off (R124). -/
def execVdecU (off : Byte) (s : State) : Result := .next (decodeValueAt false off s)

/-- VDEC.S off (R124). -/
def execVdecS (off : Byte) (s : State) : Result := .next (decodeValueAt true off s)

/-- VENC.U1 w (R125). -/
def execVencU1 (w : Word32) (s : State) : Result := .next (appendEncoded 1 false w s)

/-- VENC.U2 w (R125). -/
def execVencU2 (w : Word32) (s : State) : Result := .next (appendEncoded 2 false w s)

/-- VENC.U3 w (R125). -/
def execVencU3 (w : Word32) (s : State) : Result := .next (appendEncoded 3 false w s)

/-- VENC.U4 w (R125). -/
def execVencU4 (w : Word32) (s : State) : Result := .next (appendEncoded 4 false w s)

/-- VENC.S1 w (R125). -/
def execVencS1 (w : Word32) (s : State) : Result := .next (appendEncoded 1 true w s)

/-- VENC.S2 w (R125). -/
def execVencS2 (w : Word32) (s : State) : Result := .next (appendEncoded 2 true w s)

/-- VENC.S3 w (R125). -/
def execVencS3 (w : Word32) (s : State) : Result := .next (appendEncoded 3 true w s)

/-- VENC.S4 w (R125). -/
def execVencS4 (w : Word32) (s : State) : Result := .next (appendEncoded 4 true w s)

end Sys2Proof.Machine
end

