-- ==== Sys2Proof/Machine/Dispatch.lean ====
section
/-! DEFINITION. One arm per operation, each a direct call of its meaning. -/

namespace Sys2Proof.Machine

def exec (i : Instr) (s : State) : Host.Outcome State Fault Refusal :=
  match i with
  | .nop => Sys2Proof.Machine.execNop s
  | .clrf => Sys2Proof.Machine.execClrf s
  | .pushf b => Sys2Proof.Machine.execPushf b s
  | .clrp => Sys2Proof.Machine.execClrp s
  | .pushp b => Sys2Proof.Machine.execPushp b s
  | .setxn b => Sys2Proof.Machine.execSetxn b s
  | .setnode b => Sys2Proof.Machine.execSetnode b s
  | .setcmd b => Sys2Proof.Machine.execSetcmd b s
  | .crcinit => Sys2Proof.Machine.execCrcinit s
  | .crcbyte b => Sys2Proof.Machine.execCrcbyte b s
  | .crcf => Sys2Proof.Machine.execCrcf s
  | .fenc => Sys2Proof.Machine.execFenc s
  | .fdec => Sys2Proof.Machine.execFdec s
  | .fchk => Sys2Proof.Machine.execFchk s
  | .vdecU off => Sys2Proof.Machine.execVdecU off s
  | .vdecS off => Sys2Proof.Machine.execVdecS off s
  | .vencU1 w => Sys2Proof.Machine.execVencU1 w s
  | .vencU2 w => Sys2Proof.Machine.execVencU2 w s
  | .vencU3 w => Sys2Proof.Machine.execVencU3 w s
  | .vencU4 w => Sys2Proof.Machine.execVencU4 w s
  | .vencS1 w => Sys2Proof.Machine.execVencS1 w s
  | .vencS2 w => Sys2Proof.Machine.execVencS2 w s
  | .vencS3 w => Sys2Proof.Machine.execVencS3 w s
  | .vencS4 w => Sys2Proof.Machine.execVencS4 w s
  | .recv => Sys2Proof.Machine.execRecv s
  | .rxbyte b => Sys2Proof.Machine.execRxbyte b s
  | .rxend => Sys2Proof.Machine.execRxend s
  | .bldrst => Sys2Proof.Machine.execBldrst s
  | .bldrd index sub => Sys2Proof.Machine.execBldrd index sub s

end Sys2Proof.Machine
end

