-- ==== Sys2Proof/Machine/Ports.lean ====
section
/-! DEFINITION. The ports of R30: the operation port and `rst` at a clock edge, operations issued one after the other
(R50), and the host's read port (R29). -/

namespace Sys2Proof.Machine

/-! ### The operation port -/

/-- A word the engine has accepted, in the order of R71: a word that is no operation reports `IllegalOp` and changes
nothing but STATUS (R69, R70, R164); the others run. -/
def acceptWord (w : OpWord) (s : State) : Result :=
  match decode w with
  | .ok i => exec i s
  | .error _ => .next (raise .illegalOp s)

/-- One rising edge of `clk` (R30): `rst` has its effect whatever else is driven (R31; log entry 4); a word is accepted
when both `op_valid` and `op_ready` are 1; otherwise nothing changes (R183). -/
def clockEdge (e : Edge) (s : State) : Result :=
  if e.rst then .next (applyReset s) else if e.accepts then acceptWord e.opWord s else .next s

/-- The edge the step takes next, with the edges after it; with nothing driven the engine stays idle (log entry 2). -/
def nextEdge (s : State) : Result :=
  match s.inputs with
  | [] => .next s
  | e :: rest => clockEdge e (s.setInputs rest)

/-- Operation words taking effect in the order of issue (R50). -/
def issueAll : List OpWord → State → Result
  | [], s => .next s
  | w :: ws, s =>
    match acceptWord w s with
    | .next t => issueAll ws t
    | .fault r => .fault r
    | .refused r => .refused r

/-- Operations taking effect in the order of issue, by their words (R50). -/
def runOps (ops : List Instr) (s : State) : Result := issueAll (ops.map encode) s

/-! ### The read port -/

/-- What the read port answers (R29). -/
structure HostRead where
  valid : Bool
  data : Word32
  deriving DecidableEq, Repr

/-- The 32 bits a register presents, zero-extended, by register number; `none` where the register holds no value or the
number is reserved (R24, R29, R46). -/
def registerWord (s : State) (number : Byte) : Option Word32 :=
  match number.toNat with
  | 0x0 => some ((statusCode s.status).setWidth 32)
  | 0x1 => some (s.acc.setWidth 32)
  | 0x2 => s.xnode.map (BitVec.setWidth 32)
  | 0x3 => s.node.map (BitVec.setWidth 32)
  | 0x4 => s.cmd.map (BitVec.setWidth 32)
  | 0x5 => s.csum.map (BitVec.setWidth 32)
  | 0x6 => some (BitVec.ofNat 32 s.pbuf.length)
  | 0x7 => some (BitVec.ofNat 32 s.fbuf.length)
  | 0x9 => some ((rxCode s.rxs).setWidth 32)
  | 0xA => s.val
  | 0xB => s.vw.map (BitVec.setWidth 32)
  | _ => none

/-- The byte at an index of a buffer, if the index is below its length (R11, R57). -/
def bufferWord (buf : List Byte) (index : Byte) : Option Word32 := buf[index.toNat]?.map (BitVec.setWidth 32)

/-- The word at a place of the three address spaces (R40); space 3 is reserved (R29). -/
def spaceWord (s : State) (space : BitVec 2) (index : Byte) : Option Word32 :=
  match space.toNat with
  | 0 => registerWord s index
  | 1 => bufferWord s.pbuf index
  | 2 => bufferWord s.fbuf index
  | _ => none

/-- A host read while `busy = 0` (R29): it changes nothing. Where `rd_valid = 0` the data is a free value of the instant
of the read (U2; log entry 9). -/
def hostRead (instant : Nat) (space : BitVec 2) (index : Byte) (s : State) : HostRead :=
  match spaceWord s space index with
  | some v => { valid := true, data := v }
  | none => { valid := false, data := Config.unspecifiedReadData instant }

/-- A host read while `busy = 1`: a protocol violation with an unspecified answer and no effect on state (R51, R183, U3;
log entry 9). -/
def hostReadBusy (instant : Nat) : HostRead :=
  { valid := Config.unspecifiedReadValid instant, data := Config.unspecifiedReadData instant }

end Sys2Proof.Machine
end

