-- ==== Sys2Proof/Machine/Step.lean ====
section
/-! DEFINITION. The step of the machine: one rising edge of `clk`, as the next entry of `inputs` says. -/

namespace Sys2Proof.Machine

/-- One step: one edge (`nextEdge`). -/
def step (s : State) : Host.Outcome State Fault Refusal := nextEdge s

/-- `s` with the host presenting, at the very next edge, the word whose bits the opcode table numbers (log entry 1). -/
def State.withFetchWord (s : State) (nbits w : Nat) : State :=
  s.setInputs (issueEdge (tableWord nbits w) :: s.inputs)

end Sys2Proof.Machine
end

