-- ==== Sys2Proof/Machine/Assembler.lean ====
section
/-! DEFINITION. The assembler syntax of R73 and the pseudo-operations of R74: source text to operations. What the two
rules do not say of the text is in log entry 13. -/

namespace Sys2Proof.Machine

/-! ### From a source line to operations -/

/-- The argument the operands of a form make: form V takes the low 32 bits of its integer (R73). -/
def operandWord : ArgForm → List Int → Word32
  | .b, [v] => packByte (BitVec.ofInt 8 v)
  | .x, [i, s] => packIndex (BitVec.ofInt 16 i) (BitVec.ofInt 8 s)
  | .v, [v] => BitVec.ofInt 32 v
  | _, _ => 0#32

/-- The operation of a mnemonic with operands (R73). -/
def assembleCore (m : Mnemonic) (operands : List Int) : Instr := buildInstr m (operandWord m.form operands)

/-- The expansion of a pseudo-operation (R74). -/
def expandPseudo : Pseudo → List Int → List Instr
  | .rxstart, _ => [.clrf]
  | .ldf, bytes => .clrf :: bytes.map fun b => .pushf (BitVec.ofInt 8 b)
  | .ldp, bytes => .clrp :: bytes.map fun b => .pushp (BitVec.ofInt 8 b)
  | .crc8, bytes => .crcinit :: bytes.map fun b => .crcbyte (BitVec.ofInt 8 b)
  | .rxchunk, bytes => .clrf :: (bytes.map fun b => .rxbyte (BitVec.ofInt 8 b)) ++ [.rxend]
  | .resetreq, _ => [.bldrst, .fenc]
  | .readreq, operands => [assembleCore .bldrd operands, .fenc]

/-- A source line assembled, if it is well-formed (R73, R74). -/
def assembleLine (l : SourceLine) : Option (List Instr) :=
  if l.wellFormed then
    match l.op with
    | .core m => some [assembleCore m l.operands]
    | .pseudo p => some (expandPseudo p l.operands)
  else none

/-! ### Text -/

/-- The names of R68 and R74. -/
def nameTable : List (String × SourceOp) :=
  [ ("NOP", .core .nop), ("CLRF", .core .clrf), ("PUSHF", .core .pushf), ("CLRP", .core .clrp),
    ("PUSHP", .core .pushp), ("SETXN", .core .setxn), ("SETNODE", .core .setnode), ("SETCMD", .core .setcmd),
    ("CRCINIT", .core .crcinit), ("CRCBYTE", .core .crcbyte), ("CRCF", .core .crcf), ("FENC", .core .fenc),
    ("FDEC", .core .fdec), ("FCHK", .core .fchk), ("VDEC.U", .core .vdecU), ("VDEC.S", .core .vdecS),
    ("VENC.U1", .core .vencU1), ("VENC.U2", .core .vencU2), ("VENC.U3", .core .vencU3) ]
  ++
  [ ("VENC.U4", .core .vencU4), ("VENC.S1", .core .vencS1), ("VENC.S2", .core .vencS2),
    ("VENC.S3", .core .vencS3), ("VENC.S4", .core .vencS4), ("RECV", .core .recv), ("RXBYTE", .core .rxbyte),
    ("RXEND", .core .rxend), ("BLDRST", .core .bldrst), ("BLDRD", .core .bldrd),
    ("RXSTART", .pseudo .rxstart), ("LDF", .pseudo .ldf), ("LDP", .pseudo .ldp), ("CRC8", .pseudo .crc8),
    ("RXCHUNK", .pseudo .rxchunk), ("RESETREQ", .pseudo .resetreq), ("READREQ", .pseudo .readreq) ]

/-- The operation or pseudo-operation of a name. -/
def lookupName (name : List Char) : Option SourceOp :=
  (nameTable.find? fun e => e.1.toList == name).map Prod.snd

/-- A space, a tab or the comma between two operands. -/
def isSeparator (c : Char) : Bool := c == ' ' || c == '\t' || c == ','

/-- The text before the comment that `;` starts (R73). -/
def dropComment (text : List Char) : List Char := text.takeWhile fun c => c != ';'

/-- The tokens of a text, read from its end: the token being built and the tokens after it. -/
def tokensFrom : List Char → List Char × List (List Char)
  | [] => ([], [])
  | c :: cs =>
    match tokensFrom cs with
    | (current, rest) =>
      if isSeparator c then ([], if current.isEmpty then rest else current :: rest) else (c :: current, rest)

/-- The tokens of a text. -/
def tokens (text : List Char) : List (List Char) :=
  match tokensFrom text with
  | (current, rest) => if current.isEmpty then rest else current :: rest

/-- The value of a digit in a base up to 16. -/
def digitValue (base : Nat) (c : Char) : Option Nat :=
  let n := c.toNat
  let d := if 48 ≤ n ∧ n ≤ 57 then n - 48
    else if 65 ≤ n ∧ n ≤ 70 then n - 55
    else if 97 ≤ n ∧ n ≤ 102 then n - 87
    else base
  if d < base then some d else none

/-- Digits read from the left, after a value already read. -/
def parseDigits (base : Nat) : Nat → List Char → Option Nat
  | acc, [] => some acc
  | acc, c :: cs =>
    match digitValue base c with
    | some d => parseDigits base (acc * base + d) cs
    | none => none

/-- A number in hex (`0x..`) or decimal (R73). -/
def parseNat : List Char → Option Nat
  | [] => none
  | '0' :: 'x' :: c :: cs => parseDigits 16 0 (c :: cs)
  | c :: cs => parseDigits 10 0 (c :: cs)

/-- An operand: a number, or a minus sign and a number (R73: form V takes a signed or unsigned integer). -/
def parseOperand : List Char → Option Int
  | '-' :: cs => (parseNat cs).map fun n => -(n : Int)
  | cs => (parseNat cs).map fun n => (n : Int)

/-- All operands of a line, or none if one does not read. -/
def parseOperands : List (List Char) → Option (List Int)
  | [] => some []
  | t :: ts =>
    match parseOperand t, parseOperands ts with
    | some v, some vs => some (v :: vs)
    | _, _ => none

/-- One line of source text assembled (R73, R74); a line with no token assembles to nothing. -/
def assembleText (line : String) : Option (List Instr) :=
  match tokens (dropComment line.toList) with
  | [] => some []
  | name :: operands =>
    match lookupName name, parseOperands operands with
    | some op, some values => assembleLine { op := op, operands := values }
    | _, _ => none

/-- Lines of source text to operation words, in order. -/
def assembleProgram : List String → Option (List OpWord)
  | [] => some []
  | l :: ls =>
    match assembleText l, assembleProgram ls with
    | some ops, some words => some (ops.map encode ++ words)
    | _, _ => none

end Sys2Proof.Machine
end

