-- ==== Sys2Proof/Safety.lean ====
section
/-! DEFINITION. What a safe run is, in the terms statements use: the programming rules of R176 and the invariants of
R33. -/

namespace Sys2Proof.Safety

open Sys2Proof.Machine

/-- The registers an operation reads hold a value (R176). An operation that breaks this is refused (R12). -/
def operandsHeld (i : Instr) (s : State) : Bool :=
  match i with
  | .fenc => s.node.isSome && s.cmd.isSome
  | .fdec => s.xnode.isSome
  | .fchk => s.xnode.isSome
  | .recv => s.xnode.isSome
  | .rxend => s.xnode.isSome
  | .nop => true
  | .clrf => true
  | .pushf _ => true
  | .clrp => true
  | .pushp _ => true
  | .setxn _ => true
  | .setnode _ => true
  | .setcmd _ => true
  | .crcinit => true
  | .crcbyte _ => true
  | .crcf => true
  | .vdecU _ => true
  | .vdecS _ => true
  | .vencU1 _ => true
  | .vencU2 _ => true
  | .vencU3 _ => true
  | .vencU4 _ => true
  | .vencS1 _ => true
  | .vencS2 _ => true
  | .vencS3 _ => true
  | .vencS4 _ => true
  | .rxbyte _ => true
  | .bldrst => true
  | .bldrd _ _ => true

/-- What R33 says of RXS and FBUF: in RX_SYNC and RX_OVF FBUF begins with the start marker, in RX_OVF it is full. -/
def receiverInv (s : State) : Bool :=
  match s.rxs with
  | .empty => true
  | .hunt => true
  | .sync => decide (s.fbuf.head? = some Config.startMarker)
  | .ovf => decide (s.fbuf.head? = some Config.startMarker) && decide (s.fbuf.length = Config.fcap)

/-- What R33 says of VAL and VW: both hold a value or neither, and VW is 1 to 4. -/
def valueInv (s : State) : Bool :=
  match s.val, s.vw with
  | none, none => true
  | some _, some n => decide (1 ≤ n.toNat) && decide (n.toNat ≤ 4)
  | _, _ => false

/-- The invariants every reachable state satisfies (R33). STATUS is one of 0 to 13 or 15 by its type (`Status`). -/
def inv (s : State) : Bool := Memory.wf s && receiverInv s && valueInv s

/-! ### The read and write sets of R32 -/

/-- The columns of the table of R32; VAL and VW share one. -/
inductive Item where
  | acc | xnode | node | cmd | csum | value | rxs | pbuf | fbuf
  deriving DecidableEq, Repr

/-- Two states hold the same in one column of R32. -/
def sameItem (k : Item) (s t : State) : Prop :=
  match k with
  | .acc => s.acc = t.acc
  | .xnode => s.xnode = t.xnode
  | .node => s.node = t.node
  | .cmd => s.cmd = t.cmd
  | .csum => s.csum = t.csum
  | .value => s.val = t.val ∧ s.vw = t.vw
  | .rxs => s.rxs = t.rxs
  | .pbuf => s.pbuf = t.pbuf
  | .fbuf => s.fbuf = t.fbuf

/-- The columns marked "r" or "a" in an operation's row of R32: an append depends on what the buffer held. -/
def readSet : Instr → List Item
  | .nop => []
  | .clrf => []
  | .pushf _ => [.fbuf]
  | .clrp => []
  | .pushp _ => [.pbuf]
  | .setxn _ => []
  | .setnode _ => []
  | .setcmd _ => []
  | .crcinit => []
  | .crcbyte _ => [.acc]
  | .crcf => [.fbuf]
  | .fenc => [.node, .cmd, .pbuf]
  | .fdec => [.xnode, .fbuf]
  | .fchk => [.xnode, .fbuf]
  | .vdecU _ => [.pbuf]
  | .vdecS _ => [.pbuf]
  | .vencU1 _ => [.pbuf]
  | .vencU2 _ => [.pbuf]
  | .vencU3 _ => [.pbuf]
  | .vencU4 _ => [.pbuf]
  | .vencS1 _ => [.pbuf]
  | .vencS2 _ => [.pbuf]
  | .vencS3 _ => [.pbuf]
  | .vencS4 _ => [.pbuf]
  | .recv => [.xnode, .fbuf]
  | .rxbyte _ => [.rxs, .fbuf]
  | .rxend => [.xnode, .rxs, .fbuf]
  | .bldrst => []
  | .bldrd _ _ => []

/-- The columns marked "w", "i" or "a" in an operation's row of R32. -/
def writeSet : Instr → List Item
  | .nop => []
  | .clrf => [.rxs, .fbuf]
  | .pushf _ => [.fbuf]
  | .clrp => [.pbuf]
  | .pushp _ => [.pbuf]
  | .setxn _ => [.xnode]
  | .setnode _ => [.node]
  | .setcmd _ => [.cmd]
  | .crcinit => [.acc]
  | .crcbyte _ => [.acc]
  | .crcf => [.acc]
  | .fenc => [.csum, .rxs, .fbuf]
  | .fdec => [.node, .cmd, .csum, .pbuf]
  | .fchk => []
  | .vdecU _ => [.value]
  | .vdecS _ => [.value]
  | .vencU1 _ => [.pbuf]
  | .vencU2 _ => [.pbuf]
  | .vencU3 _ => [.pbuf]
  | .vencU4 _ => [.pbuf]
  | .vencS1 _ => [.pbuf]
  | .vencS2 _ => [.pbuf]
  | .vencS3 _ => [.pbuf]
  | .vencS4 _ => [.pbuf]
  | .recv => [.node, .cmd, .csum, .rxs, .pbuf, .fbuf]
  | .rxbyte _ => [.rxs, .fbuf]
  | .rxend => [.node, .cmd, .csum, .rxs, .pbuf]
  | .bldrst => [.cmd, .pbuf]
  | .bldrd _ _ => [.cmd, .pbuf]

/-- The error kinds an operation can report, from the "raised by" column of R150; `IllegalOp` belongs to words that are no
operation. -/
def kindsOf : Instr → List ErrorKind
  | .nop => []
  | .clrf => []
  | .pushf _ => [.bufferOverflow]
  | .clrp => []
  | .pushp _ => [.bufferOverflow]
  | .setxn _ => []
  | .setnode _ => []
  | .setcmd _ => []
  | .crcinit => []
  | .crcbyte _ => []
  | .crcf => []
  | .fenc => [.payloadTooLarge]
  | .fdec => [.truncated, .badDelimiter, .lengthMismatch, .wrongNode, .checksumMismatch]
  | .fchk => [.truncated, .badDelimiter, .lengthMismatch, .wrongNode, .checksumMismatch]
  | .vdecU _ => [.emptyValue, .valueTooWide]
  | .vdecS _ => [.emptyValue, .valueTooWide]
  | .vencU1 _ => [.valueRange, .bufferOverflow]
  | .vencU2 _ => [.valueRange, .bufferOverflow]
  | .vencU3 _ => [.valueRange, .bufferOverflow]
  | .vencU4 _ => [.valueRange, .bufferOverflow]
  | .vencS1 _ => [.valueRange, .bufferOverflow]
  | .vencS2 _ => [.valueRange, .bufferOverflow]
  | .vencS3 _ => [.valueRange, .bufferOverflow]
  | .vencS4 _ => [.valueRange, .bufferOverflow]
  | .recv => [.noData, .noStartMarker, .truncated, .badDelimiter, .lengthMismatch, .wrongNode, .checksumMismatch]
  | .rxbyte _ => [.bufferOverflow]
  | .rxend => [.noData, .noStartMarker, .truncated, .badDelimiter, .lengthMismatch, .wrongNode, .checksumMismatch, .bufferOverflow]
  | .bldrst => []
  | .bldrd _ _ => []

end Sys2Proof.Safety
end

