-- ==== Sys2Proof/Certificates/Slice0/Obligations.lean ====
section
/-! DEFINITION. The statements for the provers. Each follows the numbered rule of spec/ its docstring names. -/

open Sys2Proof Sys2Proof.Machine Sys2Proof.Safety

/-! ### Buffer and register access -/

/-- R80: the word, the effect (none, STATUS kept), and that any argument makes the word illegal. -/
def Obligations.NopChangesNothing : Prop :=
  decode 0x0000000000#40 = .ok .nop ∧
  ∀ s : State, exec .nop s = .next s ∧
    ∀ arg : Word32, arg ≠ 0#32 →
      acceptWord (0x00#8 ++ arg) s = .next { s with status := .error .illegalOp }

/-- R81. -/
def Obligations.ClrfEmptiesFbufAndOpensAChunk : Prop :=
  decode 0x1000000000#40 = .ok .clrf ∧
  ∀ s : State, exec .clrf s = .next { s with fbuf := [], rxs := .empty, status := .ok }

/-- R82: both outcomes; nothing else changes in either. -/
def Obligations.PushfAppendsOrReportsOverflow : Prop :=
  ∀ (b : Byte) (s : State),
    decode (0x11000000#32 ++ b) = .ok (.pushf b) ∧
    (s.fbuf.length ≠ 64 → exec (.pushf b) s = .next { s with fbuf := s.fbuf ++ [b], status := .ok }) ∧
    (s.fbuf.length = 64 → exec (.pushf b) s = .next { s with status := .error .bufferOverflow })

/-- R83. -/
def Obligations.ClrpEmptiesPbufOnly : Prop :=
  decode 0x1200000000#40 = .ok .clrp ∧
  ∀ s : State, exec .clrp s = .next { s with pbuf := [], status := .ok }

/-- R84: both outcomes; nothing else changes in either. -/
def Obligations.PushpAppendsOrReportsOverflow : Prop :=
  ∀ (b : Byte) (s : State),
    decode (0x13000000#32 ++ b) = .ok (.pushp b) ∧
    (s.pbuf.length ≠ 64 → exec (.pushp b) s = .next { s with pbuf := s.pbuf ++ [b], status := .ok }) ∧
    (s.pbuf.length = 64 → exec (.pushp b) s = .next { s with status := .error .bufferOverflow })

/-- R85, R86, R87: each stores all eight bits it is given, whatever the register held, and writes nothing else. -/
def Obligations.SetOperationsStoreTheirByte : Prop :=
  ∀ (b : Byte) (s : State),
    decode (0x14000000#32 ++ b) = .ok (.setxn b) ∧
    decode (0x15000000#32 ++ b) = .ok (.setnode b) ∧
    decode (0x16000000#32 ++ b) = .ok (.setcmd b) ∧
    exec (.setxn b) s = .next { s with xnode := some b, status := .ok } ∧
    exec (.setnode b) s = .next { s with node := some b, status := .ok } ∧
    exec (.setcmd b) s = .next { s with cmd := some b, status := .ok }

/-! ### CRC-8 -/

/-- R90: the four functions, bit by bit for the shift. -/
def Obligations.CrcFunctionsAreThoseOfTheRule : Prop :=
  (∀ a : Byte, crcBit a = if a.getLsbD 0 = true then (a >>> 1) ^^^ 0xD5#8 else a >>> 1) ∧
  (∀ (a : Byte) (i : Nat), (a >>> 1).getLsbD i = a.getLsbD (i + 1)) ∧
  (∀ a b : Byte, crcByte a b =
    crcBit (crcBit (crcBit (crcBit (crcBit (crcBit (crcBit (crcBit (a ^^^ b))))))))) ∧
  (∀ a : Byte, crcFold a [] = a) ∧
  (∀ (a b : Byte) (bs : List Byte), crcFold a ([b] ++ bs) = crcFold (crcByte a b) bs) ∧
  (∀ bytes : List Byte, crc8 bytes = crcFold 0xFF#8 bytes)

/-- R92, R93, R94, with the corner cases and the examples those rules give. -/
def Obligations.CrcOperationsWriteAccOnly : Prop :=
  decode 0x2000000000#40 = .ok .crcinit ∧ decode 0x2200000000#40 = .ok .crcf ∧
  crc8 [] = 0xFF#8 ∧ crc8 [0x07#8, 0x01#8, 0x01#8, 0x41#8, 0x60#8, 0x00#8] = 0x73#8 ∧
  crcByte 0xFF#8 0x07#8 = 0x52#8 ∧ (∀ a : Byte, crcByte a a = 0x00#8) ∧
  ((List.range 256).filter fun n => crcByte (BitVec.ofNat 8 n) 0x00#8 == BitVec.ofNat 8 n).length = 64 ∧
  ∀ (b : Byte) (s : State),
    decode (0x21000000#32 ++ b) = .ok (.crcbyte b) ∧
    exec .crcinit s = .next { s with acc := 0xFF#8, status := .ok } ∧
    exec (.crcbyte b) s = .next { s with acc := crcByte s.acc b, status := .ok } ∧
    exec .crcf s = .next { s with acc := crcFold 0xFF#8 s.fbuf, status := .ok }

/-- R95: the law of the functions, and on the engine CRCINIT and CRCBYTE of each byte give what CRCF gives. The spec
marks this rule as derived. -/
def Obligations.CrcStreamingLaw : Prop :=
  (∀ (a : Byte) (xs ys : List Byte), crcFold a (xs ++ ys) = crcFold (crcFold a xs) ys) ∧
  (∀ xs ys : List Byte, crc8 (xs ++ ys) = crcFold (crc8 xs) ys) ∧
  ∀ (bs : List Byte) (s : State),
    runOps (.crcinit :: bs.map Instr.crcbyte) s = .next { s with acc := crc8 bs, status := .ok } ∧
    runOps [.crcf] { s with fbuf := bs } = .next { s with fbuf := bs, acc := crc8 bs, status := .ok }

/-- R96: `T` is `crcByte 0`; it is linear and a bijection; the fold of an XOR is the XOR of the folds; `crc8` of the
one-byte messages is a permutation. The spec marks this rule as derived. -/
def Obligations.CrcIsLinearAndABijection : Prop :=
  (∀ a b : Byte, crcByte a b = crcByte 0#8 (a ^^^ b)) ∧
  crcByte 0#8 0#8 = 0#8 ∧
  (∀ x y : Byte, crcByte 0#8 (x ^^^ y) = crcByte 0#8 x ^^^ crcByte 0#8 y) ∧
  Function.Bijective (crcByte 0#8) ∧
  (∀ (a a' : Byte) (xs ys : List Byte), xs.length = ys.length →
    crcFold (a ^^^ a') (List.zipWith (fun x y => x ^^^ y) xs ys) = crcFold a xs ^^^ crcFold a' ys) ∧
  Function.Bijective (fun b : Byte => crc8 [b])

/-- R97. The spec marks this rule as derived. -/
def Obligations.CrcResidueIsZero : Prop :=
  ∀ xs : List Byte, crc8 (xs ++ [crc8 xs]) = 0x00#8

/-- R98: (a) every single-bit change is seen, at every length; (b) the same bit of two bytes three positions apart is
never seen, and the example the rule gives of a frame changed so. The spec marks this rule as derived. -/
def Obligations.CrcSeesOneFlipAndMissesTwoApart : Prop :=
  (∀ (xs : List Byte) (i j : Nat), i < xs.length → j < 8 →
    crc8 (xs.modify i fun b => b ^^^ BitVec.twoPow 8 j) ≠ crc8 xs) ∧
  (∀ (xs : List Byte) (i j : Nat), i + 3 < xs.length → j < 8 →
    crc8 ((xs.modify i fun b => b ^^^ BitVec.twoPow 8 j).modify (i + 3) fun b => b ^^^ BitVec.twoPow 8 j) = crc8 xs) ∧
  isValidFrame [0x53#8, 0x0B#8, 0x01#8, 0x01#8, 0x65#8, 0x60#8, 0x00#8, 0x08#8, 0x00#8, 0x00#8, 0x00#8, 0x53#8, 0x45#8]
    0x01#8 = true

/-! ### Frame codec -/

/-- R101, R102: the frame, and the one way Encode fails. -/
def Obligations.EncodeBuildsTheFrame : Prop :=
  ∀ (n c : Byte) (p : List Byte),
    (p.length ≤ 58 → encodeFrame n c p = .ok
      ([0x53#8] ++ [BitVec.ofNat 8 (p.length + 4), n, c] ++ p ++
        [crc8 ([BitVec.ofNat 8 (p.length + 4), n, c] ++ p), 0x45#8])) ∧
    (58 < p.length → encodeFrame n c p = .error .payloadTooLarge)

/-- R103: the word, refusal, success and `PayloadTooLarge`, with all that each leaves unchanged. -/
def Obligations.FencPlacesTheFrame : Prop :=
  decode 0x3000000000#40 = .ok .fenc ∧
  ∀ s : State,
    (s.node = none ∨ s.cmd = none → ∃ r, exec .fenc s = .refused (.noValue r)) ∧
    ∀ n c : Byte, s.node = some n → s.cmd = some c →
      (s.pbuf.length ≤ 58 → exec .fenc s = .next
        { s with
          fbuf := [0x53#8, BitVec.ofNat 8 (s.pbuf.length + 4), n, c] ++ s.pbuf ++
            [crc8 ([BitVec.ofNat 8 (s.pbuf.length + 4), n, c] ++ s.pbuf), 0x45#8]
          csum := some (crc8 ([BitVec.ofNat 8 (s.pbuf.length + 4), n, c] ++ s.pbuf))
          rxs := .empty
          status := .ok }) ∧
      (58 < s.pbuf.length → exec .fenc s = .next
        { s with fbuf := [], csum := none, rxs := .empty, status := .error .payloadTooLarge })

/-- R105, R109: each kind under exactly its conditions, in the order of the checks, and the fields on success. Every byte
is read by its index, so no answer past the end of `raw` is used. -/
def Obligations.DecodeReportsTheFirstFailingCheck : Prop :=
  ∀ (raw : List Byte) (x : Byte),
    (decodeFrame raw x = .error .truncated ↔ raw.length < 6) ∧
    (decodeFrame raw x = .error .badDelimiter ↔
      6 ≤ raw.length ∧ (raw[0]? ≠ some 0x53#8 ∨ raw[raw.length - 1]? ≠ some 0x45#8)) ∧
    (decodeFrame raw x = .error .lengthMismatch ↔
      6 ≤ raw.length ∧ raw[0]? = some 0x53#8 ∧ raw[raw.length - 1]? = some 0x45#8 ∧
      ∃ udl : Byte, raw[1]? = some udl ∧ raw.length ≠ udl.toNat + 2) ∧
    (decodeFrame raw x = .error .wrongNode ↔
      6 ≤ raw.length ∧ raw[0]? = some 0x53#8 ∧ raw[raw.length - 1]? = some 0x45#8 ∧
      ∃ udl : Byte, raw[1]? = some udl ∧ raw.length = udl.toNat + 2 ∧ raw[2]? ≠ some x) ∧
    (decodeFrame raw x = .error .checksumMismatch ↔
      6 ≤ raw.length ∧ raw[0]? = some 0x53#8 ∧ raw[raw.length - 1]? = some 0x45#8 ∧
      ∃ udl : Byte, raw[1]? = some udl ∧ raw.length = udl.toNat + 2 ∧ raw[2]? = some x ∧
        raw[udl.toNat]? ≠ some (crc8 ((raw.take udl.toNat).drop 1))) ∧
    (∀ f : Frame, decodeFrame raw x = .ok f ↔
      6 ≤ raw.length ∧ raw[0]? = some 0x53#8 ∧ raw[raw.length - 1]? = some 0x45#8 ∧
      ∃ udl : Byte, raw[1]? = some udl ∧ raw.length = udl.toNat + 2 ∧ raw[2]? = some x ∧
        raw[udl.toNat]? = some (crc8 ((raw.take udl.toNat).drop 1)) ∧
        raw[2]? = some f.node ∧ raw[3]? = some f.command ∧
        f.payload = (raw.take udl.toNat).drop 4 ∧ raw[udl.toNat]? = some f.checksum) ∧
    (∀ k : ErrorKind, decodeFrame raw x = .error k →
      k ∈ [ErrorKind.truncated, .badDelimiter, .lengthMismatch, .wrongNode, .checksumMismatch])

/-- R110: the word, refusal, the tuple delivered, all four destinations invalidated on failure. -/
def Obligations.FdecDeliversOrInvalidates : Prop :=
  decode 0x3100000000#40 = .ok .fdec ∧
  ∀ s : State,
    (s.xnode = none → exec .fdec s = .refused (.noValue .xnode)) ∧
    ∀ x : Byte, s.xnode = some x →
      (∀ f : Frame, decodeFrame s.fbuf x = .ok f → exec .fdec s = .next
        { s with node := some f.node, cmd := some f.command, pbuf := f.payload, csum := some f.checksum,
                 status := .ok }) ∧
      (∀ k : ErrorKind, decodeFrame s.fbuf x = .error k → exec .fdec s = .next
        { s with node := none, cmd := none, csum := none, pbuf := [], status := .error k })

/-- R112, with R111's predicate: STATUS and nothing else. -/
def Obligations.FchkWritesTheVerdictOnly : Prop :=
  decode 0x3200000000#40 = .ok .fchk ∧
  ∀ s : State,
    (s.xnode = none → exec .fchk s = .refused (.noValue .xnode)) ∧
    ∀ x : Byte, s.xnode = some x →
      (isValidFrame s.fbuf x = true → exec .fchk s = .next { s with status := .ok }) ∧
      (∀ k : ErrorKind, decodeFrame s.fbuf x = .error k → exec .fchk s = .next { s with status := .error k })

/-- R111: the predicate is the success of `decode_frame`, and every encoded frame passes its own check. -/
def Obligations.ValidFrameIsWhatDecodeAccepts : Prop :=
  (∀ (raw : List Byte) (x : Byte), isValidFrame raw x = true ↔ ∃ f : Frame, decodeFrame raw x = .ok f) ∧
  ∀ (n c : Byte) (p : List Byte), p.length ≤ 58 →
    ∃ frame, encodeFrame n c p = .ok frame ∧ isValidFrame frame n = true

/-- R113: the round trip of the functions for every expected node, and on the engine. The spec marks this rule as
derived. -/
def Obligations.FrameRoundTrip : Prop :=
  (∀ (n c x : Byte) (p : List Byte), p.length ≤ 58 →
    ∃ frame, encodeFrame n c p = .ok frame ∧
      decodeFrame frame x =
        if x = n then .ok { node := n, command := c, payload := p,
                            checksum := crc8 ([BitVec.ofNat 8 (p.length + 4), n, c] ++ p) }
        else .error .wrongNode) ∧
  ∀ (s : State) (n c : Byte), s.node = some n → s.xnode = some n → s.cmd = some c → s.pbuf.length ≤ 58 →
    ∃ t, runOps [.fenc, .fdec] s = .next t ∧
      t.node = s.node ∧ t.cmd = s.cmd ∧ t.pbuf = s.pbuf ∧ t.status = .ok

/-- R114: the three-way law of proper non-empty prefixes of a valid frame (90_conflicts.md C1). The spec marks this
rule as derived. -/
def Obligations.TruncatedFramesAreRejected : Prop :=
  ∀ (raw : List Byte) (x : Byte) (f : Frame) (k : Nat), decodeFrame raw x = .ok f → 0 < k → k < raw.length →
    (k < 6 → decodeFrame (raw.take k) x = .error .truncated) ∧
    (6 ≤ k → raw[k - 1]? ≠ some 0x45#8 → decodeFrame (raw.take k) x = .error .badDelimiter) ∧
    (6 ≤ k → raw[k - 1]? = some 0x45#8 → decodeFrame (raw.take k) x = .error .lengthMismatch)

/-- R115: exactly one bit of a valid frame flipped, by the byte it lies in. The spec marks this rule as derived. -/
def Obligations.OneFlippedBitIsRejectedByItsPlace : Prop :=
  ∀ (raw : List Byte) (x : Byte) (f : Frame) (i j : Nat), decodeFrame raw x = .ok f → i < raw.length → j < 8 →
    decodeFrame (raw.modify i fun b => b ^^^ BitVec.twoPow 8 j) x =
      if i = 0 ∨ i = raw.length - 1 then .error .badDelimiter
      else if i = 1 then .error .lengthMismatch
      else if i = 2 then .error .wrongNode
      else .error .checksumMismatch

/-- R116: a length byte below 4 never passes. The spec marks this rule as derived. -/
def Obligations.ShortLengthByteIsRejected : Prop :=
  ∀ (raw : List Byte) (x udl : Byte), raw[1]? = some udl → udl.toNat < 4 →
    decodeFrame raw x = .error .truncated ∨ decodeFrame raw x = .error .badDelimiter ∨
    decodeFrame raw x = .error .lengthMismatch

/-! ### Value codec -/

/-- R121, R122: the little-endian sum, the correction by the sign bit of the last byte, both ranges, and the empty
sequence. -/
def Obligations.DecodeValueIsTheSignedSum : Prop :=
  (∀ signed : Bool, decodeValue [] signed = .error .emptyValue) ∧
  ∀ (bytes : List Byte) (h : bytes ≠ []) (signed : Bool),
    ∃ v : Int, decodeValue bytes signed = .ok v ∧
      v = ((∑ i : Fin bytes.length, (bytes.get i).toNat * 2 ^ (8 * i.val) : Nat) : Int) -
        (if signed = true ∧ (bytes.getLast h).getLsbD 7 = true then 2 ^ (8 * bytes.length) else 0) ∧
      (signed = false → 0 ≤ v ∧ v < 2 ^ (8 * bytes.length)) ∧
      (signed = true → -(2 ^ (8 * bytes.length - 1)) ≤ v ∧ v < 2 ^ (8 * bytes.length - 1))

/-- R123: VAL is the extension of the value bytes, and it loses nothing. The spec marks this rule as derived. -/
def Obligations.ValIsTheExtendedValue : Prop :=
  ∀ (bytes : List Byte) (v : Int), 1 ≤ bytes.length → bytes.length ≤ 4 →
    (decodeValue bytes true = .ok v →
      BitVec.ofInt 32 v = (BitVec.ofNat (8 * bytes.length) (magnitude bytes)).signExtend 32 ∧
      (BitVec.ofInt 32 v).toInt = v) ∧
    (decodeValue bytes false = .ok v →
      BitVec.ofInt 32 v = (BitVec.ofNat (8 * bytes.length) (magnitude bytes)).setWidth 32 ∧
      ((BitVec.ofInt 32 v).toNat : Int) = v)

/-- R124: the words, the three outcomes by the number of bytes from the offset on, PBUF kept. -/
def Obligations.VdecDecodesWhatRemains : Prop :=
  ∀ (off : Byte) (s : State),
    decode (0x40000000#32 ++ off) = .ok (.vdecU off) ∧ decode (0x41000000#32 ++ off) = .ok (.vdecS off) ∧
    ∀ op ∈ [(Instr.vdecU off, false), (Instr.vdecS off, true)],
      (s.pbuf.length ≤ off.toNat →
        exec op.1 s = .next { s with val := none, vw := none, status := .error .emptyValue }) ∧
      (off.toNat + 4 < s.pbuf.length →
        exec op.1 s = .next { s with val := none, vw := none, status := .error .valueTooWide }) ∧
      (off.toNat < s.pbuf.length → s.pbuf.length ≤ off.toNat + 4 →
        ∃ v : Int, decodeValue (s.pbuf.drop off.toNat) op.2 = .ok v ∧
          exec op.1 s = .next
            { s with
              val := some (BitVec.ofInt 32 v)
              vw := some (BitVec.ofNat 3 (s.pbuf.length - off.toNat))
              status := .ok })

/-- R125: the eight operations; `ValueRange` first, then the room, then the low bytes of the word in little-endian order.
In each outcome nothing else changes. -/
def Obligations.VencAppendsTheLowBytes : Prop :=
  ∀ (w : Word32) (s : State),
    (∀ op ∈ [(0x48#8, Instr.vencU1 w), (0x49#8, Instr.vencU2 w), (0x4A#8, Instr.vencU3 w), (0x4B#8, Instr.vencU4 w),
        (0x4C#8, Instr.vencS1 w), (0x4D#8, Instr.vencS2 w), (0x4E#8, Instr.vencS3 w), (0x4F#8, Instr.vencS4 w)],
      decode (op.1 ++ w) = .ok op.2) ∧
    (∀ op ∈ [(Instr.vencU1 w, 1), (Instr.vencU2 w, 2), (Instr.vencU3 w, 3), (Instr.vencU4 w, 4)],
      (¬ w.toNat < 2 ^ (8 * op.2) → exec op.1 s = .next { s with status := .error .valueRange }) ∧
      (w.toNat < 2 ^ (8 * op.2) → 64 < s.pbuf.length + op.2 →
        exec op.1 s = .next { s with status := .error .bufferOverflow }) ∧
      (w.toNat < 2 ^ (8 * op.2) → s.pbuf.length + op.2 ≤ 64 →
        exec op.1 s = .next
          { s with pbuf := s.pbuf ++ (List.range op.2).map (fun k => w.extractLsb' (8 * k) 8), status := .ok })) ∧
    (∀ op ∈ [(Instr.vencS1 w, 1), (Instr.vencS2 w, 2), (Instr.vencS3 w, 3), (Instr.vencS4 w, 4)],
      (¬ (-(2 ^ (8 * op.2 - 1)) ≤ w.toInt ∧ w.toInt < 2 ^ (8 * op.2 - 1)) →
        exec op.1 s = .next { s with status := .error .valueRange }) ∧
      (-(2 ^ (8 * op.2 - 1)) ≤ w.toInt ∧ w.toInt < 2 ^ (8 * op.2 - 1) → 64 < s.pbuf.length + op.2 →
        exec op.1 s = .next { s with status := .error .bufferOverflow }) ∧
      (-(2 ^ (8 * op.2 - 1)) ≤ w.toInt ∧ w.toInt < 2 ^ (8 * op.2 - 1) → s.pbuf.length + op.2 ≤ 64 →
        exec op.1 s = .next
          { s with pbuf := s.pbuf ++ (List.range op.2).map (fun k => w.extractLsb' (8 * k) 8), status := .ok }))

/-- R126: each direction undoes the other, and the bytes do not depend on the signedness where both fit. The spec
marks this rule as derived. -/
def Obligations.ValueCodecDirectionsAreInverse : Prop :=
  ∀ (n : Nat) (signed : Bool), 1 ≤ n → n ≤ 4 →
    (∀ v : Int, fits v n signed = true →
      ∃ bs, encodeValue v n signed = some bs ∧ bs.length = n ∧ decodeValue bs signed = .ok v) ∧
    (∀ bs : List Byte, bs.length = n →
      ∃ v, decodeValue bs signed = .ok v ∧ encodeValue v n signed = some bs) ∧
    (∀ v : Int, fits v n true = true → fits v n false = true → encodeValue v n true = encodeValue v n false)

/-! ### Stream receiver -/

/-- R131: the four steps, the start marker found by its least index. -/
def Obligations.ReceiveFollowsItsFourSteps : Prop :=
  ∀ x : Byte,
    receive [] x = .error .noData ∧
    (∀ buf : List Byte, buf ≠ [] → 0x53#8 ∉ buf → receive buf x = .error .noStartMarker) ∧
    (∀ (buf : List Byte) (i : Nat), buf[i]? = some 0x53#8 → (∀ j, j < i → buf[j]? ≠ some 0x53#8) →
      receive buf x = decodeFrame (buf.drop i) x)

/-- R132: the word, refusal, and what FBUF, RXS and the four destinations hold in every outcome. -/
def Obligations.RecvKeepsTheSliceAndDelivers : Prop :=
  decode 0x5000000000#40 = .ok .recv ∧
  ∀ s : State,
    (s.xnode = none → exec .recv s = .refused (.noValue .xnode)) ∧
    ∀ x : Byte, s.xnode = some x →
      (s.fbuf = [] → exec .recv s = .next
        { s with node := none, cmd := none, csum := none, pbuf := [], rxs := .empty, status := .error .noData }) ∧
      (s.fbuf ≠ [] → 0x53#8 ∉ s.fbuf → exec .recv s = .next
        { s with node := none, cmd := none, csum := none, pbuf := [], fbuf := [], rxs := .empty,
                 status := .error .noStartMarker }) ∧
      ∀ i : Nat, s.fbuf[i]? = some 0x53#8 → (∀ j, j < i → s.fbuf[j]? ≠ some 0x53#8) →
        (∀ f : Frame, decodeFrame (s.fbuf.drop i) x = .ok f → exec .recv s = .next
          { s with node := some f.node, cmd := some f.command, pbuf := f.payload, csum := some f.checksum,
                   fbuf := s.fbuf.drop i, rxs := .empty, status := .ok }) ∧
        (∀ k : ErrorKind, decodeFrame (s.fbuf.drop i) x = .error k → exec .recv s = .next
          { s with node := none, cmd := none, csum := none, pbuf := [],
                   fbuf := s.fbuf.drop i, rxs := .empty, status := .error k })

/-- R134: bytes without a start marker in front change nothing. The spec marks this rule as derived. -/
def Obligations.NoiseBeforeTheMarkerIsDiscarded : Prop :=
  ∀ (noise rest : List Byte) (x : Byte), 0x53#8 ∉ noise →
    receive (noise ++ 0x53#8 :: rest) x = receive (0x53#8 :: rest) x

/-- R137, the byte columns of the table of R136. -/
def Obligations.RxbyteFollowsTheTransitionTable : Prop :=
  ∀ (b : Byte) (s : State),
    decode (0x52000000#32 ++ b) = .ok (.rxbyte b) ∧
    (s.rxs = .empty ∨ s.rxs = .hunt → b = 0x53#8 →
      exec (.rxbyte b) s = .next { s with fbuf := [0x53#8], rxs := .sync, status := .ok }) ∧
    (s.rxs = .empty ∨ s.rxs = .hunt → b ≠ 0x53#8 →
      exec (.rxbyte b) s = .next { s with fbuf := [], rxs := .hunt, status := .ok }) ∧
    (s.rxs = .sync → s.fbuf.length ≠ 64 →
      exec (.rxbyte b) s = .next { s with fbuf := s.fbuf ++ [b], status := .ok }) ∧
    (s.rxs = .sync → s.fbuf.length = 64 →
      exec (.rxbyte b) s = .next { s with rxs := .ovf, status := .error .bufferOverflow }) ∧
    (s.rxs = .ovf → exec (.rxbyte b) s = .next { s with status := .error .bufferOverflow })

/-- R138: the verdict by RXS; FBUF kept, RXS to RX_EMPTY. -/
def Obligations.RxendDeliversTheVerdict : Prop :=
  decode 0x5300000000#40 = .ok .rxend ∧
  ∀ s : State,
    (s.xnode = none → exec .rxend s = .refused (.noValue .xnode)) ∧
    ∀ x : Byte, s.xnode = some x →
      (∀ k : ErrorKind,
        (s.rxs = .empty ∧ k = .noData) ∨ (s.rxs = .hunt ∧ k = .noStartMarker) ∨
        (s.rxs = .sync ∧ decodeFrame s.fbuf x = .error k) ∨ (s.rxs = .ovf ∧ k = .bufferOverflow) →
        exec .rxend s = .next
          { s with node := none, cmd := none, csum := none, pbuf := [], rxs := .empty, status := .error k }) ∧
      (∀ f : Frame, s.rxs = .sync → decodeFrame s.fbuf x = .ok f → exec .rxend s = .next
        { s with node := some f.node, cmd := some f.command, pbuf := f.payload, csum := some f.checksum,
                 rxs := .empty, status := .ok })

/-- R139, "Invariant behind it": what RXS and FBUF hold after CLRF and RXBYTE of each byte. The spec marks this rule
as derived. -/
def Obligations.ReceiverTracksTheChunk : Prop :=
  ∀ (s : State) (buf : List Byte), (buf.dropWhile fun b => b != 0x53#8).length ≤ 64 →
    runOps (.clrf :: buf.map Instr.rxbyte) s = .next
      { s with
        fbuf := buf.dropWhile fun b => b != 0x53#8
        rxs := if buf = [] then .empty else if 0x53#8 ∈ buf then .sync else .hunt
        status := .ok }

/-- R139: the byte-at-a-time path ends in the state that `receive` of the bytes gives, and for a chunk FBUF can hold
the batch path ends in the same state. The spec marks this rule as derived. -/
def Obligations.BytewiseAndBatchReceptionAgree : Prop :=
  ∀ (s : State) (x : Byte) (buf : List Byte), s.xnode = some x →
    ((buf.dropWhile fun b => b != 0x53#8).length ≤ 64 →
      runOps (.clrf :: buf.map Instr.rxbyte ++ [.rxend]) s =
        match receive buf x with
        | .ok f => .next
            { s with node := some f.node, cmd := some f.command, pbuf := f.payload, csum := some f.checksum,
                     fbuf := buf.dropWhile fun b => b != 0x53#8, rxs := .empty, status := .ok }
        | .error k => .next
            { s with node := none, cmd := none, csum := none, pbuf := [],
                     fbuf := buf.dropWhile fun b => b != 0x53#8, rxs := .empty, status := .error k }) ∧
    (buf.length ≤ 64 →
      runOps (.clrf :: buf.map Instr.pushf ++ [.recv]) s = runOps (.clrf :: buf.map Instr.rxbyte ++ [.rxend]) s)

/-! ### Command builder -/

/-- R145 to R148: the two payloads with their command codes, PBUF replaced, nothing else but CMD and STATUS written; and the
must-be-zero bits of BLDRD. -/
def Obligations.BuildersReplacePayloadAndCommand : Prop :=
  decode 0x6000000000#40 = .ok .bldrst ∧ buildReset = ([], 0x00#8) ∧
  (∀ high low sub : Byte, buildReadRequest high low sub = ([low, high, sub], 0x01#8)) ∧
  ∀ (high low sub : Byte) (s : State),
    decode (0x6100#16 ++ sub ++ high ++ low) = .ok (.bldrd (high ++ low) sub) ∧
    (∀ arg : Word32, 2 ^ 24 ≤ arg.toNat → acceptWord (0x61#8 ++ arg) s = .next { s with status := .error .illegalOp }) ∧
    exec .bldrst s = .next { s with pbuf := [], cmd := some 0x00#8, status := .ok } ∧
    exec (.bldrd (high ++ low) sub) s =
      .next { s with pbuf := [low, high, sub], cmd := some 0x01#8, status := .ok }

/-- R43, R74 (READREQ), R147: the read request frame for every node, index and subindex. -/
def Obligations.ReadRequestFrameOnTheWire : Prop :=
  ∀ (s : State) (n high low sub : Byte), s.node = some n →
    ∃ t, runOps [.bldrd (high ++ low) sub, .fenc] s = .next t ∧ t.status = .ok ∧
      t.fbuf = [0x53#8, 0x07#8, n, 0x01#8, low, high, sub, crc8 [0x07#8, n, 0x01#8, low, high, sub], 0x45#8] ∧
      (n = 0x01#8 → high = 0x60#8 → low = 0x64#8 → sub = 0x00#8 →
        t.fbuf = [0x53#8, 0x07#8, 0x01#8, 0x01#8, 0x64#8, 0x60#8, 0x00#8, 0x56#8, 0x45#8])

/-! ### Encoding -/

/-- Decode and encode agree: no bit of any operand is dropped (R66 to R68). -/
def Obligations.DecodeOfEncodeIsTheOperation : Prop :=
  ∀ i : Instr, decode (encode i) = .ok i

/-- Each word has at most one meaning and no operation has two words (R66, R70). -/
def Obligations.EncodeOfDecodeIsTheWord : Prop :=
  ∀ (w : OpWord) (i : Instr), decode w = .ok i → encode i = w

/-- R71: the decoder accepts a word exactly when one row of the table does, by `(W & mask) == match`; the row is the
operation's; no word is admitted by two rows. -/
def Obligations.DecoderAgreesWithTheTable : Prop :=
  (∀ w : OpWord, (∃ i, decode w = .ok i) ↔ ∃ r ∈ opcodeTable, r.admits w) ∧
  (∀ (w : OpWord) (i : Instr), decode w = .ok i → ∀ r ∈ opcodeTable, r.admits w → r.mnemonic = mnemonicOf i) ∧
  opcodeTable.Pairwise (fun r q => ∀ w : OpWord, ¬ (r.admits w ∧ q.admits w))

/-- R69: the reserved opcode values, each rejected with every argument, changing nothing but STATUS. -/
def Obligations.ReservedOpcodesAreIllegal : Prop :=
  ∀ (op : Byte) (arg : Word32) (s : State),
    ((0x01 ≤ op.toNat ∧ op.toNat ≤ 0x0F) ∨ (0x17 ≤ op.toNat ∧ op.toNat ≤ 0x1F) ∨
      (0x23 ≤ op.toNat ∧ op.toNat ≤ 0x2F) ∨ (0x33 ≤ op.toNat ∧ op.toNat ≤ 0x3F) ∨
      (0x42 ≤ op.toNat ∧ op.toNat ≤ 0x47) ∨ op.toNat = 0x51 ∨ (0x54 ≤ op.toNat ∧ op.toNat ≤ 0x5F) ∨
      0x62 ≤ op.toNat ↔ decode (op ++ arg) = .error (.reservedOpcode op)) ∧
    (decode (op ++ arg) = .error (.reservedOpcode op) →
      acceptWord (op ++ arg) s = .next { s with status := .error .illegalOp })

/-- R70: a must-be-zero bit set, form by form, comes before every other effect and before the no-value check. -/
def Obligations.MustBeZeroBitsAreIllegal : Prop :=
  ∀ (op : Byte) (arg : Word32) (s : State),
    (op ∈ [0x00#8, 0x10#8, 0x12#8, 0x20#8, 0x22#8, 0x30#8, 0x31#8, 0x32#8, 0x50#8, 0x53#8, 0x60#8] ∧ arg ≠ 0#32) ∨
    (op ∈ [0x11#8, 0x13#8, 0x14#8, 0x15#8, 0x16#8, 0x21#8, 0x40#8, 0x41#8, 0x52#8] ∧ 2 ^ 8 ≤ arg.toNat) ∨
    (op = 0x61#8 ∧ 2 ^ 24 ≤ arg.toNat) →
      acceptWord (op ++ arg) s = .next { s with status := .error .illegalOp }

/-- Sanity: words of the spec's own listings (R73, 95_test_vectors.md), one of each family. -/
def Obligations.ListedWordsDecode : Prop :=
  decode 0x1100000053#40 = .ok (.pushf 0x53#8) ∧ decode 0x2100000007#40 = .ok (.crcbyte 0x07#8) ∧
  decode 0x3000000000#40 = .ok .fenc ∧ decode 0x4100000003#40 = .ok (.vdecS 0x03#8) ∧
  decode 0x4FFFFFFFFF#40 = .ok (.vencS4 0xFFFFFFFF#32) ∧ decode 0x52000000AA#40 = .ok (.rxbyte 0xAA#8) ∧
  decode 0x6100026041#40 = .ok (.bldrd 0x6041#16 0x02#8)

/-! ### The step -/

/-- A step runs the decoded operation: at an edge where a word is accepted, the step is the meaning of that word's
operation with the edge consumed, and nothing besides (R30, R50). The list of edges is the model's (log entry 1). -/
def Obligations.StepRunsTheDecodedOperation : Prop :=
  ∀ (s : State) (w : OpWord) (rest : List Edge) (i : Instr),
    s.inputs = { rst := false, opValid := true, opReady := true, opWord := w } :: rest → decode w = .ok i →
    step s = exec i { s with inputs := rest }

/-- R164: a word that is no operation changes nothing but STATUS. The list of edges is the model's (log entry 1). -/
def Obligations.StepOnAnIllegalWordWritesStatusOnly : Prop :=
  ∀ (s : State) (w : OpWord) (rest : List Edge) (e : IllegalWord),
    s.inputs = { rst := false, opValid := true, opReady := true, opWord := w } :: rest → decode w = .error e →
    step s = .next { s with inputs := rest, status := .error .illegalOp }

/-- R31: `rst` at an edge, whatever else the ports carry. The list of edges and `rst` winning over a word presented at the
same edge are the model's (log entries 1 and 4). -/
def Obligations.ResetEdgeSetsEveryItem : Prop :=
  ∀ (s : State) (e : Edge) (rest : List Edge), s.inputs = e :: rest → e.rst = true →
    step s = .next
      { status := .none, acc := 0xFF#8, xnode := none, node := none, cmd := none, csum := none, val := none,
        vw := none, rxs := .empty, pbuf := [], fbuf := [], inputs := rest }

/-- R175: the state after reset, and the code STATUS then presents. That no edge is listed is the model's own choice (log
entry 1) and no part of this statement. -/
def Obligations.ResetStateIsThatOfTheTable : Prop :=
  statusCode State.reset.status = 15#4 ∧ State.reset.acc = 0xFF#8 ∧ State.reset.xnode = none ∧
  State.reset.node = none ∧ State.reset.cmd = none ∧ State.reset.csum = none ∧ State.reset.val = none ∧
  State.reset.vw = none ∧ rxCode State.reset.rxs = 0#2 ∧ State.reset.pbuf = [] ∧ State.reset.fbuf = []

/-- An edge at which no word is accepted changes nothing (R30, R183); with nothing driven the engine stays as it is (the
model's reading, log entry 2). -/
def Obligations.NothingHappensWithoutAnAcceptedWord : Prop :=
  (∀ (s : State) (e : Edge) (rest : List Edge), s.inputs = e :: rest → e.rst = false →
    (e.opValid = false ∨ e.opReady = false) → step s = .next { s with inputs := rest }) ∧
  ∀ s : State, s.inputs = [] → step s = .next s

/-- R50: the machine driven edge by edge with accepted words is the fold of the words in the order of issue. The list of
edges is the model's (log entry 1). -/
def Obligations.MachineIsTheFoldOfTheIssuedWords : Prop :=
  ∀ (words : List OpWord) (rest : List Edge) (s : State),
    Host.Core.run Sys2Proof.core words.length { s with inputs := words.map issueEdge ++ rest } =
      issueAll words { s with inputs := rest }

/-! ### Invariants and whole-machine rules -/

/-- R33 holds right after reset. The spec marks this rule as derived. -/
def Obligations.InvariantAtReset : Prop := inv State.reset = true

/-- R33: every step keeps the invariant, from every state that has it. The spec marks this rule as derived. -/
def Obligations.EveryStepKeepsTheInvariant : Prop :=
  ∀ s t : State, inv s = true → step s = .next t → inv t = true

/-- R33: whatever the ports carry after reset, every state the machine reaches satisfies the invariants, written out;
and STATUS never presents code 14. The list of edges is the model's (log entry 1). The spec marks this rule as
derived. -/
def Obligations.ReachableStatesSatisfyTheInvariants : Prop :=
  ∀ (edges : List Edge) (n : Nat) (t : State),
    Host.Core.run Sys2Proof.core n { State.reset with inputs := edges } = .next t →
      t.pbuf.length ≤ 64 ∧ t.fbuf.length ≤ 64 ∧ statusCode t.status ≠ 14#4 ∧
      (∀ n, t.vw = some n → 1 ≤ n.toNat ∧ n.toNat ≤ 4) ∧ (t.val.isSome = t.vw.isSome) ∧
      (t.rxs = .sync → 1 ≤ t.fbuf.length ∧ t.fbuf[0]? = some 0x53#8) ∧
      (t.rxs = .ovf → t.fbuf.length = 64 ∧ t.fbuf[0]? = some 0x53#8)

/-- R32: the write set of every operation is complete, and so is its read set: two states that agree on what an
operation reads get the same outcome, the same STATUS and the same value of everything it writes. The spec marks this
rule as derived. -/
def Obligations.ReadAndWriteSetsAreComplete : Prop :=
  ∀ i : Instr,
    (∀ s t : State, exec i s = .next t →
      (∀ k : Item, k ∉ writeSet i → sameItem k s t) ∧ t.inputs = s.inputs ∧ (i = .nop → t.status = s.status)) ∧
    (∀ s₁ s₂ : State, (∀ k ∈ readSet i, sameItem k s₁ s₂) →
      (∀ t₁, exec i s₁ = .next t₁ → ∃ t₂, exec i s₂ = .next t₂ ∧
        (∀ k ∈ writeSet i, sameItem k t₁ t₂) ∧ (i ≠ .nop → t₁.status = t₂.status)) ∧
      (∀ r, exec i s₁ = .refused r → exec i s₂ = .refused r))

/-- R150: an operation other than NOP writes STATUS, with 0 or one of the kinds the list gives it; `NONE` is never
written. -/
def Obligations.OperationsReportOnlyTheirKinds : Prop :=
  ∀ (i : Instr) (s t : State), i ≠ .nop → exec i s = .next t →
    t.status = .ok ∨ ∃ k ∈ kindsOf i, t.status = .error k

/-- R13: the codes of the outcomes. -/
def Obligations.StatusCodesAreThoseListed : Prop :=
  [Status.ok, .error .payloadTooLarge, .error .noData, .error .noStartMarker, .error .truncated,
    .error .badDelimiter, .error .lengthMismatch, .error .wrongNode, .error .checksumMismatch, .error .emptyValue,
    .error .valueRange, .error .valueTooWide, .error .bufferOverflow, .error .illegalOp, .none].map
      (fun v => (statusCode v).toNat) = [0, 1, 2, 3, 4, 5, 6, 7, 8, 9, 10, 11, 12, 13, 15] ∧
  [RxState.empty, .hunt, .sync, .ovf].map (fun v => (rxCode v).toNat) = [0, 1, 2, 3]

/-- R12, R176: an operation is refused exactly when an operand register holds no value, and completes in every other
case (R190). That it never faults is the model's reading of R150, R167 and R190: its type of faults is empty (log entry
14). The spec marks R176 and R190 as derived. -/
def Obligations.RefusedExactlyWithoutOperands : Prop :=
  ∀ (i : Instr) (s : State),
    ((∃ r, exec i s = .refused (.noValue r)) ↔ operandsHeld i s = false) ∧
    ((∃ t, exec i s = .next t) ↔ operandsHeld i s = true) ∧
    ∀ k : Fault, exec i s ≠ .fault k

/-- R49: the operations the rule lists as idempotent. The spec marks this rule as derived. -/
def Obligations.ListedOperationsAreIdempotent : Prop :=
  ∀ (b : Byte) (index : BitVec 16) (i : Instr) (s t : State),
    i ∈ [Instr.nop, .clrf, .clrp, .setxn b, .setnode b, .setcmd b, .crcinit, .crcf, .fchk, .bldrst, .bldrd index b,
      .fdec, .fenc] →
    exec i s = .next t → exec i t = .next t

/-- R157: the table of what a failure invalidates and what it leaves alone, for every operation that can fail. A valid NOP
does not fail and keeps an earlier STATUS; the operations of the last line never fail. -/
def Obligations.FailureInvalidatesItsDestinations : Prop :=
  ∀ (i : Instr) (s t : State) (k : ErrorKind), exec i s = .next t → t.status = .error k →
    match i with
    | .fenc => t = { s with fbuf := [], csum := none, rxs := .empty, status := .error k }
    | .fdec => t = { s with node := none, cmd := none, csum := none, pbuf := [], status := .error k }
    | .fchk => t = { s with status := .error k }
    | .recv => t = { s with node := none, cmd := none, csum := none, pbuf := [], rxs := .empty,
                            fbuf := s.fbuf.dropWhile (fun b => b != 0x53#8), status := .error k }
    | .rxend => t = { s with node := none, cmd := none, csum := none, pbuf := [], rxs := .empty, status := .error k }
    | .vdecU _ => t = { s with val := none, vw := none, status := .error k }
    | .vdecS _ => t = { s with val := none, vw := none, status := .error k }
    | .vencU1 _ => t = { s with status := .error k }
    | .vencU2 _ => t = { s with status := .error k }
    | .vencU3 _ => t = { s with status := .error k }
    | .vencU4 _ => t = { s with status := .error k }
    | .vencS1 _ => t = { s with status := .error k }
    | .vencS2 _ => t = { s with status := .error k }
    | .vencS3 _ => t = { s with status := .error k }
    | .vencS4 _ => t = { s with status := .error k }
    | .pushp _ => t = { s with status := .error k }
    | .pushf _ => t = { s with status := .error k }
    | .rxbyte _ => t = { s with rxs := .ovf, status := .error k }
    | .nop => t = s
    | .clrf | .clrp | .setxn _ | .setnode _ | .setcmd _ | .crcinit | .crcbyte _ | .crcf | .bldrst | .bldrd _ _ => False

/-! ### The read port and the assembler -/

/-- R29, R46: what the read port answers at every place of the four spaces. Where it answers `valid = false` the data is
free, for every instant of the read. -/
def Obligations.ReadPortPresentsTheState : Prop :=
  ∀ (instant : Nat) (s : State),
    (hostRead instant 0#2 0x0#8 s = ⟨true, (statusCode s.status).setWidth 32⟩) ∧
    (hostRead instant 0#2 0x1#8 s = ⟨true, s.acc.setWidth 32⟩) ∧
    (∀ v, s.xnode = some v → hostRead instant 0#2 0x2#8 s = ⟨true, v.setWidth 32⟩) ∧
    (∀ v, s.node = some v → hostRead instant 0#2 0x3#8 s = ⟨true, v.setWidth 32⟩) ∧
    (∀ v, s.cmd = some v → hostRead instant 0#2 0x4#8 s = ⟨true, v.setWidth 32⟩) ∧
    (∀ v, s.csum = some v → hostRead instant 0#2 0x5#8 s = ⟨true, v.setWidth 32⟩) ∧
    (hostRead instant 0#2 0x6#8 s = ⟨true, BitVec.ofNat 32 s.pbuf.length⟩) ∧
    (hostRead instant 0#2 0x7#8 s = ⟨true, BitVec.ofNat 32 s.fbuf.length⟩) ∧
    (hostRead instant 0#2 0x9#8 s = ⟨true, (rxCode s.rxs).setWidth 32⟩) ∧
    (∀ v, s.val = some v → hostRead instant 0#2 0xA#8 s = ⟨true, v⟩) ∧
    (∀ v, s.vw = some v → hostRead instant 0#2 0xB#8 s = ⟨true, v.setWidth 32⟩) ∧
    (∀ (i : Byte) (v : Byte), s.pbuf[i.toNat]? = some v → hostRead instant 1#2 i s = ⟨true, v.setWidth 32⟩) ∧
    (∀ (i : Byte) (v : Byte), s.fbuf[i.toNat]? = some v → hostRead instant 2#2 i s = ⟨true, v.setWidth 32⟩) ∧
    (∀ i : Byte, i.toNat = 8 ∨ 12 ≤ i.toNat → (hostRead instant 0#2 i s).valid = false) ∧
    ((hostRead instant 0#2 0x2#8 s).valid = s.xnode.isSome ∧ (hostRead instant 0#2 0x3#8 s).valid = s.node.isSome ∧
      (hostRead instant 0#2 0x4#8 s).valid = s.cmd.isSome ∧ (hostRead instant 0#2 0x5#8 s).valid = s.csum.isSome ∧
      (hostRead instant 0#2 0xA#8 s).valid = s.val.isSome ∧ (hostRead instant 0#2 0xB#8 s).valid = s.vw.isSome) ∧
    (∀ i : Byte, s.pbuf.length ≤ i.toNat → (hostRead instant 1#2 i s).valid = false) ∧
    (∀ i : Byte, s.fbuf.length ≤ i.toNat → (hostRead instant 2#2 i s).valid = false) ∧
    (∀ i : Byte, (hostRead instant 3#2 i s).valid = false)

/-- R74: the expansion of every pseudo-operation, for any number of byte operands; READREQ takes the operands of BLDRD. -/
def Obligations.PseudoOperationsExpandAsListed : Prop :=
  assembleLine ⟨.pseudo .rxstart, []⟩ = some [.clrf] ∧
  assembleLine ⟨.pseudo .resetreq, []⟩ = some [.bldrst, .fenc] ∧
  (∀ bytes : List Byte,
    assembleLine ⟨.pseudo .ldf, bytes.map fun b => (b.toNat : Int)⟩ = some (.clrf :: bytes.map Instr.pushf) ∧
    assembleLine ⟨.pseudo .ldp, bytes.map fun b => (b.toNat : Int)⟩ = some (.clrp :: bytes.map Instr.pushp) ∧
    assembleLine ⟨.pseudo .crc8, bytes.map fun b => (b.toNat : Int)⟩ = some (.crcinit :: bytes.map Instr.crcbyte) ∧
    assembleLine ⟨.pseudo .rxchunk, bytes.map fun b => (b.toNat : Int)⟩ =
      some (.clrf :: bytes.map Instr.rxbyte ++ [.rxend])) ∧
  (∀ (index : BitVec 16) (sub : Byte),
    assembleLine ⟨.pseudo .readreq, [(index.toNat : Int), (sub.toNat : Int)]⟩ = some [.bldrd index sub, .fenc])
end

