-- ==== Sys2Proof/Laws/State.lean ====
section
/-! SUPPORT. One lemma per field per update of State, so that no proof unfolds a record update; and the same for the ends
of operations (`succeed`, `raise`, `applyReset`). -/

namespace Sys2Proof.Machine

section
variable (v : Status) (s : State)
@[simp] theorem State.setStatus_status : (s.setStatus v).status = v := rfl
@[simp] theorem State.setStatus_acc : (s.setStatus v).acc = s.acc := rfl
@[simp] theorem State.setStatus_xnode : (s.setStatus v).xnode = s.xnode := rfl
@[simp] theorem State.setStatus_node : (s.setStatus v).node = s.node := rfl
@[simp] theorem State.setStatus_cmd : (s.setStatus v).cmd = s.cmd := rfl
@[simp] theorem State.setStatus_csum : (s.setStatus v).csum = s.csum := rfl
@[simp] theorem State.setStatus_val : (s.setStatus v).val = s.val := rfl
@[simp] theorem State.setStatus_vw : (s.setStatus v).vw = s.vw := rfl
@[simp] theorem State.setStatus_rxs : (s.setStatus v).rxs = s.rxs := rfl
@[simp] theorem State.setStatus_pbuf : (s.setStatus v).pbuf = s.pbuf := rfl
@[simp] theorem State.setStatus_fbuf : (s.setStatus v).fbuf = s.fbuf := rfl
@[simp] theorem State.setStatus_inputs : (s.setStatus v).inputs = s.inputs := rfl
end

section
variable (v : Byte) (s : State)
@[simp] theorem State.setAcc_status : (s.setAcc v).status = s.status := rfl
@[simp] theorem State.setAcc_acc : (s.setAcc v).acc = v := rfl
@[simp] theorem State.setAcc_xnode : (s.setAcc v).xnode = s.xnode := rfl
@[simp] theorem State.setAcc_node : (s.setAcc v).node = s.node := rfl
@[simp] theorem State.setAcc_cmd : (s.setAcc v).cmd = s.cmd := rfl
@[simp] theorem State.setAcc_csum : (s.setAcc v).csum = s.csum := rfl
@[simp] theorem State.setAcc_val : (s.setAcc v).val = s.val := rfl
@[simp] theorem State.setAcc_vw : (s.setAcc v).vw = s.vw := rfl
@[simp] theorem State.setAcc_rxs : (s.setAcc v).rxs = s.rxs := rfl
@[simp] theorem State.setAcc_pbuf : (s.setAcc v).pbuf = s.pbuf := rfl
@[simp] theorem State.setAcc_fbuf : (s.setAcc v).fbuf = s.fbuf := rfl
@[simp] theorem State.setAcc_inputs : (s.setAcc v).inputs = s.inputs := rfl
end

section
variable (v : Option Byte) (s : State)
@[simp] theorem State.setXnode_status : (s.setXnode v).status = s.status := rfl
@[simp] theorem State.setXnode_acc : (s.setXnode v).acc = s.acc := rfl
@[simp] theorem State.setXnode_xnode : (s.setXnode v).xnode = v := rfl
@[simp] theorem State.setXnode_node : (s.setXnode v).node = s.node := rfl
@[simp] theorem State.setXnode_cmd : (s.setXnode v).cmd = s.cmd := rfl
@[simp] theorem State.setXnode_csum : (s.setXnode v).csum = s.csum := rfl
@[simp] theorem State.setXnode_val : (s.setXnode v).val = s.val := rfl
@[simp] theorem State.setXnode_vw : (s.setXnode v).vw = s.vw := rfl
@[simp] theorem State.setXnode_rxs : (s.setXnode v).rxs = s.rxs := rfl
@[simp] theorem State.setXnode_pbuf : (s.setXnode v).pbuf = s.pbuf := rfl
@[simp] theorem State.setXnode_fbuf : (s.setXnode v).fbuf = s.fbuf := rfl
@[simp] theorem State.setXnode_inputs : (s.setXnode v).inputs = s.inputs := rfl
end

section
variable (v : Option Byte) (s : State)
@[simp] theorem State.setNode_status : (s.setNode v).status = s.status := rfl
@[simp] theorem State.setNode_acc : (s.setNode v).acc = s.acc := rfl
@[simp] theorem State.setNode_xnode : (s.setNode v).xnode = s.xnode := rfl
@[simp] theorem State.setNode_node : (s.setNode v).node = v := rfl
@[simp] theorem State.setNode_cmd : (s.setNode v).cmd = s.cmd := rfl
@[simp] theorem State.setNode_csum : (s.setNode v).csum = s.csum := rfl
@[simp] theorem State.setNode_val : (s.setNode v).val = s.val := rfl
@[simp] theorem State.setNode_vw : (s.setNode v).vw = s.vw := rfl
@[simp] theorem State.setNode_rxs : (s.setNode v).rxs = s.rxs := rfl
@[simp] theorem State.setNode_pbuf : (s.setNode v).pbuf = s.pbuf := rfl
@[simp] theorem State.setNode_fbuf : (s.setNode v).fbuf = s.fbuf := rfl
@[simp] theorem State.setNode_inputs : (s.setNode v).inputs = s.inputs := rfl
end

section
variable (v : Option Byte) (s : State)
@[simp] theorem State.setCmd_status : (s.setCmd v).status = s.status := rfl
@[simp] theorem State.setCmd_acc : (s.setCmd v).acc = s.acc := rfl
@[simp] theorem State.setCmd_xnode : (s.setCmd v).xnode = s.xnode := rfl
@[simp] theorem State.setCmd_node : (s.setCmd v).node = s.node := rfl
@[simp] theorem State.setCmd_cmd : (s.setCmd v).cmd = v := rfl
@[simp] theorem State.setCmd_csum : (s.setCmd v).csum = s.csum := rfl
@[simp] theorem State.setCmd_val : (s.setCmd v).val = s.val := rfl
@[simp] theorem State.setCmd_vw : (s.setCmd v).vw = s.vw := rfl
@[simp] theorem State.setCmd_rxs : (s.setCmd v).rxs = s.rxs := rfl
@[simp] theorem State.setCmd_pbuf : (s.setCmd v).pbuf = s.pbuf := rfl
@[simp] theorem State.setCmd_fbuf : (s.setCmd v).fbuf = s.fbuf := rfl
@[simp] theorem State.setCmd_inputs : (s.setCmd v).inputs = s.inputs := rfl
end

section
variable (v : Option Byte) (s : State)
@[simp] theorem State.setCsum_status : (s.setCsum v).status = s.status := rfl
@[simp] theorem State.setCsum_acc : (s.setCsum v).acc = s.acc := rfl
@[simp] theorem State.setCsum_xnode : (s.setCsum v).xnode = s.xnode := rfl
@[simp] theorem State.setCsum_node : (s.setCsum v).node = s.node := rfl
@[simp] theorem State.setCsum_cmd : (s.setCsum v).cmd = s.cmd := rfl
@[simp] theorem State.setCsum_csum : (s.setCsum v).csum = v := rfl
@[simp] theorem State.setCsum_val : (s.setCsum v).val = s.val := rfl
@[simp] theorem State.setCsum_vw : (s.setCsum v).vw = s.vw := rfl
@[simp] theorem State.setCsum_rxs : (s.setCsum v).rxs = s.rxs := rfl
@[simp] theorem State.setCsum_pbuf : (s.setCsum v).pbuf = s.pbuf := rfl
@[simp] theorem State.setCsum_fbuf : (s.setCsum v).fbuf = s.fbuf := rfl
@[simp] theorem State.setCsum_inputs : (s.setCsum v).inputs = s.inputs := rfl
end

section
variable (v : Option Word32) (s : State)
@[simp] theorem State.setVal_status : (s.setVal v).status = s.status := rfl
@[simp] theorem State.setVal_acc : (s.setVal v).acc = s.acc := rfl
@[simp] theorem State.setVal_xnode : (s.setVal v).xnode = s.xnode := rfl
@[simp] theorem State.setVal_node : (s.setVal v).node = s.node := rfl
@[simp] theorem State.setVal_cmd : (s.setVal v).cmd = s.cmd := rfl
@[simp] theorem State.setVal_csum : (s.setVal v).csum = s.csum := rfl
@[simp] theorem State.setVal_val : (s.setVal v).val = v := rfl
@[simp] theorem State.setVal_vw : (s.setVal v).vw = s.vw := rfl
@[simp] theorem State.setVal_rxs : (s.setVal v).rxs = s.rxs := rfl
@[simp] theorem State.setVal_pbuf : (s.setVal v).pbuf = s.pbuf := rfl
@[simp] theorem State.setVal_fbuf : (s.setVal v).fbuf = s.fbuf := rfl
@[simp] theorem State.setVal_inputs : (s.setVal v).inputs = s.inputs := rfl
end

section
variable (v : Option (BitVec 3)) (s : State)
@[simp] theorem State.setVw_status : (s.setVw v).status = s.status := rfl
@[simp] theorem State.setVw_acc : (s.setVw v).acc = s.acc := rfl
@[simp] theorem State.setVw_xnode : (s.setVw v).xnode = s.xnode := rfl
@[simp] theorem State.setVw_node : (s.setVw v).node = s.node := rfl
@[simp] theorem State.setVw_cmd : (s.setVw v).cmd = s.cmd := rfl
@[simp] theorem State.setVw_csum : (s.setVw v).csum = s.csum := rfl
@[simp] theorem State.setVw_val : (s.setVw v).val = s.val := rfl
@[simp] theorem State.setVw_vw : (s.setVw v).vw = v := rfl
@[simp] theorem State.setVw_rxs : (s.setVw v).rxs = s.rxs := rfl
@[simp] theorem State.setVw_pbuf : (s.setVw v).pbuf = s.pbuf := rfl
@[simp] theorem State.setVw_fbuf : (s.setVw v).fbuf = s.fbuf := rfl
@[simp] theorem State.setVw_inputs : (s.setVw v).inputs = s.inputs := rfl
end

section
variable (v : RxState) (s : State)
@[simp] theorem State.setRxs_status : (s.setRxs v).status = s.status := rfl
@[simp] theorem State.setRxs_acc : (s.setRxs v).acc = s.acc := rfl
@[simp] theorem State.setRxs_xnode : (s.setRxs v).xnode = s.xnode := rfl
@[simp] theorem State.setRxs_node : (s.setRxs v).node = s.node := rfl
@[simp] theorem State.setRxs_cmd : (s.setRxs v).cmd = s.cmd := rfl
@[simp] theorem State.setRxs_csum : (s.setRxs v).csum = s.csum := rfl
@[simp] theorem State.setRxs_val : (s.setRxs v).val = s.val := rfl
@[simp] theorem State.setRxs_vw : (s.setRxs v).vw = s.vw := rfl
@[simp] theorem State.setRxs_rxs : (s.setRxs v).rxs = v := rfl
@[simp] theorem State.setRxs_pbuf : (s.setRxs v).pbuf = s.pbuf := rfl
@[simp] theorem State.setRxs_fbuf : (s.setRxs v).fbuf = s.fbuf := rfl
@[simp] theorem State.setRxs_inputs : (s.setRxs v).inputs = s.inputs := rfl
end

section
variable (v : List Byte) (s : State)
@[simp] theorem State.setPbuf_status : (s.setPbuf v).status = s.status := rfl
@[simp] theorem State.setPbuf_acc : (s.setPbuf v).acc = s.acc := rfl
@[simp] theorem State.setPbuf_xnode : (s.setPbuf v).xnode = s.xnode := rfl
@[simp] theorem State.setPbuf_node : (s.setPbuf v).node = s.node := rfl
@[simp] theorem State.setPbuf_cmd : (s.setPbuf v).cmd = s.cmd := rfl
@[simp] theorem State.setPbuf_csum : (s.setPbuf v).csum = s.csum := rfl
@[simp] theorem State.setPbuf_val : (s.setPbuf v).val = s.val := rfl
@[simp] theorem State.setPbuf_vw : (s.setPbuf v).vw = s.vw := rfl
@[simp] theorem State.setPbuf_rxs : (s.setPbuf v).rxs = s.rxs := rfl
@[simp] theorem State.setPbuf_pbuf : (s.setPbuf v).pbuf = v := rfl
@[simp] theorem State.setPbuf_fbuf : (s.setPbuf v).fbuf = s.fbuf := rfl
@[simp] theorem State.setPbuf_inputs : (s.setPbuf v).inputs = s.inputs := rfl
end

section
variable (v : List Byte) (s : State)
@[simp] theorem State.setFbuf_status : (s.setFbuf v).status = s.status := rfl
@[simp] theorem State.setFbuf_acc : (s.setFbuf v).acc = s.acc := rfl
@[simp] theorem State.setFbuf_xnode : (s.setFbuf v).xnode = s.xnode := rfl
@[simp] theorem State.setFbuf_node : (s.setFbuf v).node = s.node := rfl
@[simp] theorem State.setFbuf_cmd : (s.setFbuf v).cmd = s.cmd := rfl
@[simp] theorem State.setFbuf_csum : (s.setFbuf v).csum = s.csum := rfl
@[simp] theorem State.setFbuf_val : (s.setFbuf v).val = s.val := rfl
@[simp] theorem State.setFbuf_vw : (s.setFbuf v).vw = s.vw := rfl
@[simp] theorem State.setFbuf_rxs : (s.setFbuf v).rxs = s.rxs := rfl
@[simp] theorem State.setFbuf_pbuf : (s.setFbuf v).pbuf = s.pbuf := rfl
@[simp] theorem State.setFbuf_fbuf : (s.setFbuf v).fbuf = v := rfl
@[simp] theorem State.setFbuf_inputs : (s.setFbuf v).inputs = s.inputs := rfl
end

section
variable (v : List Edge) (s : State)
@[simp] theorem State.setInputs_status : (s.setInputs v).status = s.status := rfl
@[simp] theorem State.setInputs_acc : (s.setInputs v).acc = s.acc := rfl
@[simp] theorem State.setInputs_xnode : (s.setInputs v).xnode = s.xnode := rfl
@[simp] theorem State.setInputs_node : (s.setInputs v).node = s.node := rfl
@[simp] theorem State.setInputs_cmd : (s.setInputs v).cmd = s.cmd := rfl
@[simp] theorem State.setInputs_csum : (s.setInputs v).csum = s.csum := rfl
@[simp] theorem State.setInputs_val : (s.setInputs v).val = s.val := rfl
@[simp] theorem State.setInputs_vw : (s.setInputs v).vw = s.vw := rfl
@[simp] theorem State.setInputs_rxs : (s.setInputs v).rxs = s.rxs := rfl
@[simp] theorem State.setInputs_pbuf : (s.setInputs v).pbuf = s.pbuf := rfl
@[simp] theorem State.setInputs_fbuf : (s.setInputs v).fbuf = s.fbuf := rfl
@[simp] theorem State.setInputs_inputs : (s.setInputs v).inputs = v := rfl
end

section
variable (k : ErrorKind) (s : State)
@[simp] theorem succeed_status : (succeed s).status = .ok := rfl
@[simp] theorem succeed_acc : (succeed s).acc = s.acc := rfl
@[simp] theorem succeed_xnode : (succeed s).xnode = s.xnode := rfl
@[simp] theorem succeed_node : (succeed s).node = s.node := rfl
@[simp] theorem succeed_cmd : (succeed s).cmd = s.cmd := rfl
@[simp] theorem succeed_csum : (succeed s).csum = s.csum := rfl
@[simp] theorem succeed_val : (succeed s).val = s.val := rfl
@[simp] theorem succeed_vw : (succeed s).vw = s.vw := rfl
@[simp] theorem succeed_rxs : (succeed s).rxs = s.rxs := rfl
@[simp] theorem succeed_pbuf : (succeed s).pbuf = s.pbuf := rfl
@[simp] theorem succeed_fbuf : (succeed s).fbuf = s.fbuf := rfl
@[simp] theorem succeed_inputs : (succeed s).inputs = s.inputs := rfl
@[simp] theorem raise_status : (raise k s).status = .error k := rfl
@[simp] theorem raise_acc : (raise k s).acc = s.acc := rfl
@[simp] theorem raise_xnode : (raise k s).xnode = s.xnode := rfl
@[simp] theorem raise_node : (raise k s).node = s.node := rfl
@[simp] theorem raise_cmd : (raise k s).cmd = s.cmd := rfl
@[simp] theorem raise_csum : (raise k s).csum = s.csum := rfl
@[simp] theorem raise_val : (raise k s).val = s.val := rfl
@[simp] theorem raise_vw : (raise k s).vw = s.vw := rfl
@[simp] theorem raise_rxs : (raise k s).rxs = s.rxs := rfl
@[simp] theorem raise_pbuf : (raise k s).pbuf = s.pbuf := rfl
@[simp] theorem raise_fbuf : (raise k s).fbuf = s.fbuf := rfl
@[simp] theorem raise_inputs : (raise k s).inputs = s.inputs := rfl
@[simp] theorem applyReset_status : (applyReset s).status = State.reset.status := rfl
@[simp] theorem applyReset_acc : (applyReset s).acc = State.reset.acc := rfl
@[simp] theorem applyReset_xnode : (applyReset s).xnode = State.reset.xnode := rfl
@[simp] theorem applyReset_node : (applyReset s).node = State.reset.node := rfl
@[simp] theorem applyReset_cmd : (applyReset s).cmd = State.reset.cmd := rfl
@[simp] theorem applyReset_csum : (applyReset s).csum = State.reset.csum := rfl
@[simp] theorem applyReset_val : (applyReset s).val = State.reset.val := rfl
@[simp] theorem applyReset_vw : (applyReset s).vw = State.reset.vw := rfl
@[simp] theorem applyReset_rxs : (applyReset s).rxs = State.reset.rxs := rfl
@[simp] theorem applyReset_pbuf : (applyReset s).pbuf = State.reset.pbuf := rfl
@[simp] theorem applyReset_fbuf : (applyReset s).fbuf = State.reset.fbuf := rfl
@[simp] theorem applyReset_inputs : (applyReset s).inputs = s.inputs := rfl
end

end Sys2Proof.Machine
end

