-- ==== Sys2Proof/Laws/Ops.lean ====
section
/-! SUPPORT. What each shared operation can do, said once: operands that may hold no value, the ends of operations, the
appends; and that every operation on the buffers keeps `Memory.wf`. -/

namespace Sys2Proof.Machine

/-! ### Operands that may hold no value (R12) -/

theorem withXnode_some {s : State} {x : Byte} (h : s.xnode = some x) (k : Byte → Result) : withXnode s k = k x := by
  simp [withXnode, h]

theorem withXnode_none {s : State} (h : s.xnode = none) (k : Byte → Result) :
    withXnode s k = .refused (.noValue .xnode) := by
  simp [withXnode, h]

/-- All that an operation reading XNODE can answer. -/
theorem withXnode_cases (s : State) (k : Byte → Result) :
    (s.xnode = none ∧ withXnode s k = .refused (.noValue .xnode)) ∨
      ∃ x, s.xnode = some x ∧ withXnode s k = k x := by
  cases h : s.xnode with
  | none => exact .inl ⟨rfl, withXnode_none h k⟩
  | some x => exact .inr ⟨x, rfl, withXnode_some h k⟩

theorem withNode_some {s : State} {n : Byte} (h : s.node = some n) (k : Byte → Result) : withNode s k = k n := by
  simp [withNode, h]

theorem withNode_none {s : State} (h : s.node = none) (k : Byte → Result) :
    withNode s k = .refused (.noValue .node) := by
  simp [withNode, h]

/-- All that an operation reading NODE can answer. -/
theorem withNode_cases (s : State) (k : Byte → Result) :
    (s.node = none ∧ withNode s k = .refused (.noValue .node)) ∨
      ∃ n, s.node = some n ∧ withNode s k = k n := by
  cases h : s.node with
  | none => exact .inl ⟨rfl, withNode_none h k⟩
  | some n => exact .inr ⟨n, rfl, withNode_some h k⟩

theorem withCmd_some {s : State} {c : Byte} (h : s.cmd = some c) (k : Byte → Result) : withCmd s k = k c := by
  simp [withCmd, h]

theorem withCmd_none {s : State} (h : s.cmd = none) (k : Byte → Result) :
    withCmd s k = .refused (.noValue .cmd) := by
  simp [withCmd, h]

/-- All that an operation reading CMD can answer. -/
theorem withCmd_cases (s : State) (k : Byte → Result) :
    (s.cmd = none ∧ withCmd s k = .refused (.noValue .cmd)) ∨
      ∃ c, s.cmd = some c ∧ withCmd s k = k c := by
  cases h : s.cmd with
  | none => exact .inl ⟨rfl, withCmd_none h k⟩
  | some c => exact .inr ⟨c, rfl, withCmd_some h k⟩

/-! ### Ends of operations (R157) -/

theorem invalidateDecode_eq (s : State) :
    invalidateDecode s = { s with node := none, cmd := none, csum := none, pbuf := [] } := rfl

theorem invalidateValue_eq (s : State) : invalidateValue s = { s with val := none, vw := none } := rfl

theorem deliver_ok (f : Frame) (s : State) :
    deliver (.ok f) s = { s with node := some f.node, cmd := some f.command, pbuf := f.payload,
                                 csum := some f.checksum, status := .ok } := rfl

theorem deliver_error (k : ErrorKind) (s : State) :
    deliver (.error k) s = { s with node := none, cmd := none, csum := none, pbuf := [], status := .error k } := rfl

/-! ### Appending (R56, R163) -/

/-- All that appending to FBUF can do. -/
theorem appendFbuf_cases (b : Byte) (s : State) :
    (s.fbuf.length = Config.fcap ∧ appendFbuf b s = { s with status := .error .bufferOverflow }) ∨
      (s.fbuf.length ≠ Config.fcap ∧ appendFbuf b s = { s with fbuf := s.fbuf ++ [b], status := .ok }) := by
  unfold appendFbuf
  split
  · exact .inl ⟨‹_›, rfl⟩
  · exact .inr ⟨‹_›, rfl⟩

/-- All that appending one byte to PBUF can do. -/
theorem appendPbuf_cases (b : Byte) (s : State) :
    (s.pbuf.length = Config.pcap ∧ appendPbuf b s = { s with status := .error .bufferOverflow }) ∨
      (s.pbuf.length ≠ Config.pcap ∧ appendPbuf b s = { s with pbuf := s.pbuf ++ [b], status := .ok }) := by
  unfold appendPbuf
  split
  · exact .inl ⟨‹_›, rfl⟩
  · exact .inr ⟨‹_›, rfl⟩

/-- All that appending a value to PBUF can do. -/
theorem appendValue_cases (bytes : List Byte) (s : State) :
    (Config.pcap < s.pbuf.length + bytes.length ∧ appendValue bytes s = { s with status := .error .bufferOverflow }) ∨
      (s.pbuf.length + bytes.length ≤ Config.pcap ∧
        appendValue bytes s = { s with pbuf := s.pbuf ++ bytes, status := .ok }) := by
  unfold appendValue
  split
  · exact .inl ⟨‹_›, rfl⟩
  · exact .inr ⟨Nat.not_lt.mp ‹_›, rfl⟩

/-! ### The form of the buffers -/

theorem memory_wf_iff (s : State) :
    Memory.wf s = true ↔ s.pbuf.length ≤ Config.pcap ∧ s.fbuf.length ≤ Config.fcap := by
  simp [Memory.wf]

theorem reset_memory_wf : Memory.wf State.reset = true := by decide

theorem applyReset_memory_wf (s : State) : Memory.wf (applyReset s) = true := reset_memory_wf

/-- The form of the buffers depends on the buffers alone. -/
theorem memory_wf_congr {s t : State} (hp : s.pbuf = t.pbuf) (hf : s.fbuf = t.fbuf) : Memory.wf s = Memory.wf t := by
  simp [Memory.wf, hp, hf]

theorem appendFbuf_memory_wf {s : State} (b : Byte) (h : Memory.wf s = true) : Memory.wf (appendFbuf b s) = true := by
  rw [memory_wf_iff] at h ⊢
  obtain ⟨-, e⟩ | ⟨hne, e⟩ := appendFbuf_cases b s <;> rw [e]
  · exact h
  · simp only [List.length_append, List.length_singleton]
    omega

theorem appendPbuf_memory_wf {s : State} (b : Byte) (h : Memory.wf s = true) : Memory.wf (appendPbuf b s) = true := by
  rw [memory_wf_iff] at h ⊢
  obtain ⟨-, e⟩ | ⟨hne, e⟩ := appendPbuf_cases b s <;> rw [e]
  · exact h
  · simp only [List.length_append, List.length_singleton]
    omega

theorem appendValue_memory_wf {s : State} (bytes : List Byte) (h : Memory.wf s = true) :
    Memory.wf (appendValue bytes s) = true := by
  rw [memory_wf_iff] at h ⊢
  obtain ⟨-, e⟩ | ⟨hle, e⟩ := appendValue_cases bytes s <;> rw [e]
  · exact h
  · exact ⟨by simpa using hle, h.2⟩

/-- Delivering keeps the form when the payload, if there is one, fits PBUF. -/
theorem deliver_memory_wf {s : State} {r : Except ErrorKind Frame} (h : Memory.wf s = true)
    (hr : ∀ f, r = .ok f → f.payload.length ≤ Config.pcap) : Memory.wf (deliver r s) = true := by
  rw [memory_wf_iff] at h ⊢
  cases r with
  | ok f => exact ⟨hr f rfl, h.2⟩
  | error k => exact ⟨Nat.zero_le _, h.2⟩

end Sys2Proof.Machine
end

