-- ==== Sys2Proof/Laws/Codec.lean ====
section
/-! SUPPORT. What the shared operations of the codecs can do, said once, and the small facts of slices and of the search
for the start marker that their proofs use. -/

namespace Sys2Proof.Machine

/-! ### Bytes and slices -/

theorem byteAt_of_getElem? {bytes : List Byte} {i : Nat} {b : Byte} (h : bytes[i]? = some b) : byteAt bytes i = b := by
  simp [byteAt, List.getD, h]

theorem getElem?_byteAt {bytes : List Byte} {i : Nat} (h : i < bytes.length) : bytes[i]? = some (byteAt bytes i) := by
  simp [byteAt, List.getD, h]

theorem slice_length (bytes : List Byte) (a b : Nat) : (slice bytes a b).length = min b bytes.length - a := by
  simp [slice]

/-! ### CRC -/

@[simp] theorem crcFold_nil (a : Byte) : crcFold a [] = a := rfl

@[simp] theorem crcFold_cons (a b : Byte) (bs : List Byte) : crcFold a (b :: bs) = crcFold (crcByte a b) bs := rfl

theorem crc8_eq (bytes : List Byte) : crc8 bytes = crcFold 0xFF#8 bytes := rfl

/-! ### Frames -/

@[simp] theorem frameBody_length (n c : Byte) (p : List Byte) : (frameBody n c p).length = p.length + 3 := rfl

@[simp] theorem frameOf_length (n c : Byte) (p : List Byte) : (frameOf n c p).length = p.length + 6 := by
  simp [frameOf]

/-- The checksum stands at index `PLEN + 4` of the frame (R60, R103). -/
theorem frameOf_checksum (n c : Byte) (p : List Byte) :
    (frameOf n c p)[p.length + 4]? = some (crc8 (frameBody n c p)) := by
  have h : (frameBody n c p).length = p.length + 3 := rfl
  simp only [frameOf, List.cons_append, List.getElem?_cons_succ]
  rw [List.getElem?_append_right (by omega), h, Nat.sub_self]
  rfl

/-- All that FENC can do with its operands (R103). -/
theorem placeFrame_cases (n c : Byte) (s : State) :
    (Config.maxPayload < s.pbuf.length ∧ placeFrame n c s =
      { s with rxs := .empty, fbuf := [], csum := none, status := .error .payloadTooLarge }) ∨
    (s.pbuf.length ≤ Config.maxPayload ∧ placeFrame n c s =
      { s with rxs := .empty, fbuf := frameOf n c s.pbuf, csum := some (crc8 (frameBody n c s.pbuf)),
               status := .ok }) := by
  by_cases h : s.pbuf.length > Config.maxPayload
  · exact .inl ⟨h, by simp only [placeFrame, encodeFrame, if_pos h]; rfl⟩
  · refine .inr ⟨Nat.not_lt.mp h, ?_⟩
    simp only [placeFrame, encodeFrame, if_neg h, frameOf_checksum]
    rfl

/-- A payload that `decode_frame` returns is shorter than the bytes it was given. -/
theorem decodeFrame_payload_length {raw : List Byte} {x : Byte} {f : Frame} (h : decodeFrame raw x = .ok f) :
    f.payload.length ≤ raw.length := by
  unfold decodeFrame at h
  split at h
  · cases h
  split at h
  · cases h
  split at h
  · cases h
  split at h
  · cases h
  split at h
  · cases h
  cases h
  simp only [slice_length]
  omega

/-! ### The search for the start marker -/

@[simp] theorem fromStartMarker_nil : fromStartMarker [] = [] := rfl

theorem fromStartMarker_length (buf : List Byte) : (fromStartMarker buf).length ≤ buf.length :=
  (List.dropWhile_suffix _).length_le

/-- What stands at the front of the slice, if there is one, is the start marker. -/
theorem fromStartMarker_head (buf : List Byte) (b : Byte) (h : (fromStartMarker buf).head? = some b) :
    b = Config.startMarker := by
  induction buf with
  | nil => cases h
  | cons c cs ih =>
    unfold fromStartMarker at h ih
    rw [List.dropWhile_cons] at h
    split at h
    · exact ih h
    · rename_i hc
      simp only [List.head?_cons, Option.some.injEq] at h
      subst h
      simpa using hc

/-- No start marker, no slice. -/
theorem fromStartMarker_eq_nil (buf : List Byte) : fromStartMarker buf = [] ↔ Config.startMarker ∉ buf := by
  unfold fromStartMarker
  rw [List.dropWhile_eq_nil_iff]
  constructor
  · intro h hm
    simpa using h _ hm
  · intro h b hb
    simp only [bne_iff_ne, ne_eq]
    rintro rfl
    exact h hb

/-- The slice from the least index of the start marker (R131). -/
theorem fromStartMarker_eq_drop (buf : List Byte) (i : Nat) (hi : buf[i]? = some Config.startMarker)
    (hl : ∀ j, j < i → buf[j]? ≠ some Config.startMarker) : fromStartMarker buf = buf.drop i := by
  induction buf generalizing i with
  | nil => cases hi
  | cons c cs ih =>
    cases i with
    | zero =>
      simp only [List.getElem?_cons_zero, Option.some.injEq] at hi
      simp [fromStartMarker, hi]
    | succ i =>
      have hc : c ≠ Config.startMarker := fun e => hl 0 (Nat.succ_pos i) (by simp [e])
      have h := ih i (by simpa using hi) (fun j hj => by simpa using hl (j + 1) (Nat.succ_lt_succ hj))
      simpa [fromStartMarker, List.dropWhile_cons, hc] using h

/-- All that a received byte can do (R136, R137). -/
theorem receiveByte_cases (b : Byte) (s : State) :
    ((s.rxs = .empty ∨ s.rxs = .hunt) ∧ b = Config.startMarker ∧
      receiveByte b s = { s with fbuf := [Config.startMarker], rxs := .sync, status := .ok }) ∨
    ((s.rxs = .empty ∨ s.rxs = .hunt) ∧ b ≠ Config.startMarker ∧
      receiveByte b s = { s with fbuf := [], rxs := .hunt, status := .ok }) ∨
    (s.rxs = .sync ∧ s.fbuf.length = Config.fcap ∧
      receiveByte b s = { s with rxs := .ovf, status := .error .bufferOverflow }) ∨
    (s.rxs = .sync ∧ s.fbuf.length ≠ Config.fcap ∧
      receiveByte b s = { s with fbuf := s.fbuf ++ [b], status := .ok }) ∨
    (s.rxs = .ovf ∧ receiveByte b s = { s with status := .error .bufferOverflow }) := by
  have hunt : s.rxs = .empty ∨ s.rxs = .hunt → receiveByte b s = huntByte b s := by
    rintro (h | h) <;> simp [receiveByte, h]
  cases h : s.rxs with
  | empty =>
    rw [hunt (.inl h)]
    by_cases e : b = Config.startMarker
    · exact .inl ⟨.inl rfl, e, by simp only [huntByte, if_pos e]; rfl⟩
    · exact .inr (.inl ⟨.inl rfl, e, by simp only [huntByte, if_neg e]; rfl⟩)
  | hunt =>
    rw [hunt (.inr h)]
    by_cases e : b = Config.startMarker
    · exact .inl ⟨.inr rfl, e, by simp only [huntByte, if_pos e]; rfl⟩
    · exact .inr (.inl ⟨.inr rfl, e, by simp only [huntByte, if_neg e]; rfl⟩)
  | sync =>
    by_cases e : s.fbuf.length = Config.fcap
    · exact .inr (.inr (.inl ⟨rfl, e, by simp only [receiveByte, h, syncByte, if_pos e]; rfl⟩))
    · refine .inr (.inr (.inr (.inl ⟨rfl, e, ?_⟩)))
      simp only [receiveByte, h, syncByte, if_neg e, succeed, State.setFbuf, State.setStatus]
  | ovf =>
    refine .inr (.inr (.inr (.inr ⟨rfl, ?_⟩)))
    simp only [receiveByte, h, raise, State.setStatus]

/-! ### Values -/

@[simp] theorem littleEndian_length (n m : Nat) : (littleEndian n m).length = n := by
  induction n generalizing m with
  | zero => rfl
  | succ n ih => simp [littleEndian, ih]

theorem magnitude_lt (bytes : List Byte) : magnitude bytes < 2 ^ (8 * bytes.length) := by
  induction bytes with
  | nil => simp [magnitude]
  | cons b bs ih =>
    have hb := b.isLt
    have e : 2 ^ (8 * (b :: bs).length) = 256 * 2 ^ (8 * bs.length) := by
      rw [List.length_cons, Nat.mul_succ, Nat.pow_add, Nat.mul_comm]
    rw [e, magnitude]
    omega

/-- All that VDEC can do (R124). -/
theorem decodeValueAt_cases (signed : Bool) (off : Byte) (s : State) :
    (Config.valMaxBytes < (valueBytes s off).length ∧ decodeValueAt signed off s =
      { s with val := none, vw := none, status := .error .valueTooWide }) ∨
    ((valueBytes s off).length ≤ Config.valMaxBytes ∧
      ((∃ k, decodeValue (valueBytes s off) signed = .error k ∧ decodeValueAt signed off s =
          { s with val := none, vw := none, status := .error k }) ∨
        ∃ v, decodeValue (valueBytes s off) signed = .ok v ∧ decodeValueAt signed off s =
          { s with val := some (BitVec.ofInt 32 v), vw := some (BitVec.ofNat 3 (valueBytes s off).length),
                   status := .ok })) := by
  by_cases h : (valueBytes s off).length > Config.valMaxBytes
  · exact .inl ⟨h, by simp only [decodeValueAt, if_pos h]; rfl⟩
  · refine .inr ⟨Nat.not_lt.mp h, ?_⟩
    cases e : decodeValue (valueBytes s off) signed with
    | error k => exact .inl ⟨k, rfl, by simp only [decodeValueAt, if_neg h, e]; rfl⟩
    | ok v => exact .inr ⟨v, rfl, by simp only [decodeValueAt, if_neg h, e]; rfl⟩

/-- All that VENC can do (R125). -/
theorem appendEncoded_cases (n : Nat) (signed : Bool) (w : Word32) (s : State) :
    (encodeValue (wordValue signed w) n signed = none ∧ appendEncoded n signed w s =
      { s with status := .error .valueRange }) ∨
    ∃ bytes, encodeValue (wordValue signed w) n signed = some bytes ∧
      appendEncoded n signed w s = appendValue bytes s := by
  cases e : encodeValue (wordValue signed w) n signed with
  | none => exact .inl ⟨rfl, by simp only [appendEncoded, e]; rfl⟩
  | some bytes => exact .inr ⟨bytes, rfl, by simp only [appendEncoded, e]⟩

end Sys2Proof.Machine
end

