-- ==== Sys2Proof/Laws/Decode.lean ====
section
/-! SUPPORT. The fields of a word and of an argument put back together and taken apart (R66, R67). -/

namespace Sys2Proof

/-- The bits of a word, opcode above argument (R66). -/
theorem word_getLsbD (op : Byte) (arg : Word32) (i : Nat) :
    (op ++ arg : OpWord).getLsbD i = if i < 32 then arg.getLsbD i else op.getLsbD (i - 32) := by
  have h := BitVec.getLsbD_append (x := op) (y := arg) (i := i)
  simpa [cond_eq_ite] using h

/-- The bits of an argument of form X (R67). -/
theorem packIndex_getLsbD (index : BitVec 16) (sub : Byte) (i : Nat) :
    (packIndex index sub).getLsbD i =
      if i < 16 then index.getLsbD i else if i - 16 < 8 then sub.getLsbD (i - 16) else false := by
  have h := BitVec.getLsbD_append (x := (0x00#8 ++ sub : BitVec 16)) (y := index) (i := i)
  have h' := BitVec.getLsbD_append (x := 0x00#8) (y := sub) (i := i - 16)
  rw [h'] at h
  simpa [packIndex, cond_eq_ite] using h

@[simp] theorem opField_append (op : Byte) (arg : Word32) : opField (op ++ arg) = op := by
  ext i hi
  simp [opField, BitVec.getElem_extractLsb', word_getLsbD, hi]

@[simp] theorem argField_append (op : Byte) (arg : Word32) : argField (op ++ arg) = arg := by
  ext i hi
  simp [argField, BitVec.getElem_extractLsb', word_getLsbD, hi]

/-- A word is its opcode and its argument (R66). -/
theorem opField_append_argField (w : OpWord) : opField w ++ argField w = w := by
  unfold opField argField
  ext i hi
  simp only [BitVec.getElem_append, BitVec.getElem_extractLsb']
  split
  · rename_i h
    simp [BitVec.getLsbD_eq_getElem hi]
  · rename_i h
    have : 32 + (i - 32) = i := by omega
    simp [this, BitVec.getLsbD_eq_getElem hi]

@[simp] theorem argByte_packByte (b : Byte) : argByte (packByte b) = b := by
  revert b; decide

@[simp] theorem argIndex_packIndex (index : BitVec 16) (sub : Byte) : argIndex (packIndex index sub) = index := by
  ext i hi
  simp [argIndex, BitVec.getElem_extractLsb', packIndex_getLsbD, hi]

@[simp] theorem argSub_packIndex (index : BitVec 16) (sub : Byte) : argSub (packIndex index sub) = sub := by
  ext i hi
  simp [argSub, BitVec.getElem_extractLsb', packIndex_getLsbD, hi]

/-- A word masked: opcode and argument apart. -/
theorem append_and_append (op opMask : Byte) (arg argMask : Word32) :
    (op ++ arg) &&& (opMask ++ argMask) = (op &&& opMask) ++ (arg &&& argMask) := by
  ext i hi
  simp only [BitVec.getElem_and, BitVec.getElem_append]
  split <;> simp

/-- The mask of a row is the opcode bits and the must-be-zero bits of its form (R71). -/
theorem rowMask_eq (f : ArgForm) : rowMask f = 0xFF#8 ++ mustBeZeroMask f := by
  cases f <;> decide

@[simp] theorem packByte_mustBeZero (b : Byte) : packByte b &&& mustBeZeroMask .b = 0#32 := by
  revert b; decide

@[simp] theorem packIndex_mustBeZero (index : BitVec 16) (sub : Byte) :
    packIndex index sub &&& mustBeZeroMask .x = 0#32 := by
  have h : mustBeZeroMask .x = (0xFF#8 ++ 0x00#8 ++ 0x0000#16 : Word32) := by decide
  rw [h]
  unfold packIndex
  ext i hi
  simp only [BitVec.getElem_and, BitVec.getElem_append]
  split <;> [skip; split] <;> simp

@[simp] theorem mustBeZero_z (arg : Word32) : arg &&& mustBeZeroMask .z = arg := by
  have h : mustBeZeroMask .z = BitVec.allOnes 32 := by decide
  rw [h, BitVec.and_allOnes]

@[simp] theorem mustBeZero_v (arg : Word32) : arg &&& mustBeZeroMask .v = 0#32 := by
  simp [mustBeZeroMask]

/-- The mnemonic and the argument an operation was built from. -/
theorem mnemonicOf_buildInstr (m : Mnemonic) (arg : Word32) : mnemonicOf (buildInstr m arg) = m := by
  cases m <;> rfl

/-- The opcode map and the opcodes of the encoder are the same table (R68). -/
theorem lookupOpcode_opcodeOf (m : Mnemonic) : lookupOpcode (opcodeOf m) = some m := by
  cases m <;> rfl

theorem opcodeOf_of_lookupOpcode (op : Byte) (m : Mnemonic) (h : lookupOpcode op = some m) : opcodeOf m = op := by
  revert op m; decide

end Sys2Proof
end

