-- ==== Sys2Proof/Laws/Machine.lean ====
section
/-! SUPPORT. What an accepted word, an edge and a step can do, said once; and the two equations of a run of the machine. -/

namespace Sys2Proof.Machine

theorem acceptWord_of_ok {w : OpWord} {i : Instr} (h : decode w = .ok i) (s : State) : acceptWord w s = exec i s := by
  simp [acceptWord, h]

theorem acceptWord_of_error {w : OpWord} {e : IllegalWord} (h : decode w = .error e) (s : State) :
    acceptWord w s = .next { s with status := .error .illegalOp } := by
  simp only [acceptWord, h]
  rfl

/-- All that an accepted word can do (R71). -/
theorem acceptWord_cases (w : OpWord) (s : State) :
    (∃ i, decode w = .ok i ∧ acceptWord w s = exec i s) ∨
      ∃ e, decode w = .error e ∧ acceptWord w s = .next { s with status := .error .illegalOp } := by
  cases h : decode w with
  | ok i => exact .inl ⟨i, rfl, acceptWord_of_ok h s⟩
  | error e => exact .inr ⟨e, rfl, acceptWord_of_error h s⟩

/-- All that one edge can do (R30, R31). -/
theorem clockEdge_cases (e : Edge) (s : State) :
    (e.rst = true ∧ clockEdge e s = .next { State.reset with inputs := s.inputs }) ∨
    (e.rst = false ∧ e.opValid = true ∧ e.opReady = true ∧ clockEdge e s = acceptWord e.opWord s) ∨
    (e.rst = false ∧ (e.opValid = false ∨ e.opReady = false) ∧ clockEdge e s = .next s) := by
  obtain ⟨r, v, y, w⟩ := e
  cases r
  · cases v
    · exact .inr (.inr ⟨rfl, .inl rfl, rfl⟩)
    · cases y
      · exact .inr (.inr ⟨rfl, .inr rfl, rfl⟩)
      · exact .inr (.inl ⟨rfl, rfl, rfl, rfl⟩)
  · exact .inl ⟨rfl, rfl⟩

theorem step_idle {s : State} (h : s.inputs = []) : step s = .next s := by
  simp [step, nextEdge, h]

theorem step_edge {s : State} {e : Edge} {rest : List Edge} (h : s.inputs = e :: rest) :
    step s = clockEdge e (s.setInputs rest) := by
  simp [step, nextEdge, h]

/-! ### Runs -/

theorem run_zero (s : State) : Host.Core.run Sys2Proof.core 0 s = (.next s : Result) := rfl

theorem run_succ_of_next {s t : State} (n : Nat) (h : step s = .next t) :
    Host.Core.run Sys2Proof.core (n + 1) s = Host.Core.run Sys2Proof.core n t := by
  have e := Host.Core.run.eq_2 Sys2Proof.core s n
  rw [show Sys2Proof.core.step s = .next t from h] at e
  exact e

theorem run_succ_of_refused {s : State} {r : Refusal} (n : Nat) (h : step s = .refused r) :
    Host.Core.run Sys2Proof.core (n + 1) s = .refused r := by
  have e := Host.Core.run.eq_2 Sys2Proof.core s n
  rw [show Sys2Proof.core.step s = .refused r from h] at e
  exact e

theorem issueAll_nil (s : State) : issueAll [] s = .next s := rfl

theorem issueAll_cons (w : OpWord) (ws : List OpWord) (s : State) :
    issueAll (w :: ws) s =
      match acceptWord w s with
      | .next t => issueAll ws t
      | .fault r => .fault r
      | .refused r => .refused r := rfl

end Sys2Proof.Machine
end

