-- ==== Sys2Proof/Laws/PerInstr.lean ====
section
/-! SUPPORT. The family MatchesRow: the word of an operation is admitted by the operation's own row of the opcode table,
`(W & mask) == match` (R71), one lemma per constructor. -/

namespace Sys2Proof.Laws

/-- The row of a mnemonic admits its opcode with any argument whose must-be-zero bits are zero. -/
theorem row_admits (m : Mnemonic) (arg : Word32) (h : arg &&& mustBeZeroMask m.form = 0#32) :
    ∃ r ∈ opcodeTable, r.mnemonic = m ∧ r.admits (opcodeOf m ++ arg) := by
  refine ⟨⟨m, opcodeOf m ++ 0#32, rowMask m.form⟩, ?_, rfl, ?_⟩
  · cases m <;> decide
  · show (opcodeOf m ++ arg) &&& rowMask m.form = opcodeOf m ++ 0#32
    rw [rowMask_eq, append_and_append, h]
    congr 1
    exact BitVec.and_allOnes

/-- The operation's word is admitted by the operation's row. -/
def MatchesRow.Statement (i : Instr) : Prop :=
  ∃ r ∈ opcodeTable, r.mnemonic = mnemonicOf i ∧ r.admits (encode i)

theorem MatchesRow.nop : MatchesRow.Statement .nop := row_admits .nop 0#32 (by decide)

theorem MatchesRow.clrf : MatchesRow.Statement .clrf := row_admits .clrf 0#32 (by decide)

theorem MatchesRow.pushf (b : Byte) : MatchesRow.Statement (.pushf b) :=
  row_admits .pushf (packByte b) (packByte_mustBeZero b)

theorem MatchesRow.clrp : MatchesRow.Statement .clrp := row_admits .clrp 0#32 (by decide)

theorem MatchesRow.pushp (b : Byte) : MatchesRow.Statement (.pushp b) :=
  row_admits .pushp (packByte b) (packByte_mustBeZero b)

theorem MatchesRow.setxn (b : Byte) : MatchesRow.Statement (.setxn b) :=
  row_admits .setxn (packByte b) (packByte_mustBeZero b)

theorem MatchesRow.setnode (b : Byte) : MatchesRow.Statement (.setnode b) :=
  row_admits .setnode (packByte b) (packByte_mustBeZero b)

theorem MatchesRow.setcmd (b : Byte) : MatchesRow.Statement (.setcmd b) :=
  row_admits .setcmd (packByte b) (packByte_mustBeZero b)

theorem MatchesRow.crcinit : MatchesRow.Statement .crcinit := row_admits .crcinit 0#32 (by decide)

theorem MatchesRow.crcbyte (b : Byte) : MatchesRow.Statement (.crcbyte b) :=
  row_admits .crcbyte (packByte b) (packByte_mustBeZero b)

theorem MatchesRow.crcf : MatchesRow.Statement .crcf := row_admits .crcf 0#32 (by decide)

theorem MatchesRow.fenc : MatchesRow.Statement .fenc := row_admits .fenc 0#32 (by decide)

theorem MatchesRow.fdec : MatchesRow.Statement .fdec := row_admits .fdec 0#32 (by decide)

theorem MatchesRow.fchk : MatchesRow.Statement .fchk := row_admits .fchk 0#32 (by decide)

theorem MatchesRow.vdecU (b : Byte) : MatchesRow.Statement (.vdecU b) :=
  row_admits .vdecU (packByte b) (packByte_mustBeZero b)

theorem MatchesRow.vdecS (b : Byte) : MatchesRow.Statement (.vdecS b) :=
  row_admits .vdecS (packByte b) (packByte_mustBeZero b)

theorem MatchesRow.vencU1 (w : Word32) : MatchesRow.Statement (.vencU1 w) :=
  row_admits .vencU1 w (mustBeZero_v w)

theorem MatchesRow.vencU2 (w : Word32) : MatchesRow.Statement (.vencU2 w) :=
  row_admits .vencU2 w (mustBeZero_v w)

theorem MatchesRow.vencU3 (w : Word32) : MatchesRow.Statement (.vencU3 w) :=
  row_admits .vencU3 w (mustBeZero_v w)

theorem MatchesRow.vencU4 (w : Word32) : MatchesRow.Statement (.vencU4 w) :=
  row_admits .vencU4 w (mustBeZero_v w)

theorem MatchesRow.vencS1 (w : Word32) : MatchesRow.Statement (.vencS1 w) :=
  row_admits .vencS1 w (mustBeZero_v w)

theorem MatchesRow.vencS2 (w : Word32) : MatchesRow.Statement (.vencS2 w) :=
  row_admits .vencS2 w (mustBeZero_v w)

theorem MatchesRow.vencS3 (w : Word32) : MatchesRow.Statement (.vencS3 w) :=
  row_admits .vencS3 w (mustBeZero_v w)

theorem MatchesRow.vencS4 (w : Word32) : MatchesRow.Statement (.vencS4 w) :=
  row_admits .vencS4 w (mustBeZero_v w)

theorem MatchesRow.recv : MatchesRow.Statement .recv := row_admits .recv 0#32 (by decide)

theorem MatchesRow.rxbyte (b : Byte) : MatchesRow.Statement (.rxbyte b) :=
  row_admits .rxbyte (packByte b) (packByte_mustBeZero b)

theorem MatchesRow.rxend : MatchesRow.Statement .rxend := row_admits .rxend 0#32 (by decide)

theorem MatchesRow.bldrst : MatchesRow.Statement .bldrst := row_admits .bldrst 0#32 (by decide)

theorem MatchesRow.bldrd (index : BitVec 16) (sub : Byte) : MatchesRow.Statement (.bldrd index sub) :=
  row_admits .bldrd (packIndex index sub) (packIndex_mustBeZero index sub)

end Sys2Proof.Laws
end

