-- ==== Sys2Proof/Tests/Slice0.lean ====
section
/-! SUPPORT. The model's own tests: ill-formed source lines and words that the checks refuse, one word of each operation
written out from its encoding, small behaviour tests on the vectors of 95_test_vectors.md, and for each statement with
hypotheses a witness that they can be met. -/

namespace Sys2Proof.Tests

open Sys2Proof Sys2Proof.Machine Sys2Proof.Safety

/-! ### Helpers -/

/-- The state after reset with XNODE, the two buffers and RXS set. -/
def st (x : Option Byte) (p f : List Byte) (r : RxState) : State :=
  { State.reset with xnode := x, pbuf := p, fbuf := f, rxs := r }

/-- The same with NODE and CMD set and FBUF empty. -/
def enc (n c : Option Byte) (p : List Byte) : State := { State.reset with node := n, cmd := c, pbuf := p }

/-- `n` bytes of value 0. -/
def zeros (n : Nat) : List Byte := List.replicate n 0#8

/-- The two frames of the end-to-end scenario (95 section 1.2) and the reset request for node 1. -/
def request : List Byte := [0x53#8, 0x07#8, 0x01#8, 0x01#8, 0x64#8, 0x60#8, 0x00#8, 0x56#8, 0x45#8]
def response : List Byte :=
  [0x53#8, 0x0B#8, 0x01#8, 0x01#8, 0x64#8, 0x60#8, 0x00#8, 0x09#8, 0x00#8, 0x00#8, 0x00#8, 0x53#8, 0x45#8]
def resetFrame : List Byte := [0x53#8, 0x04#8, 0x01#8, 0x00#8, 0x50#8, 0x45#8]

/-- A frame with an end marker byte inside its payload (95 section 2.3). -/
def markerInside : List Byte :=
  [0x53#8, 0x08#8, 0x01#8, 0x01#8, 0x64#8, 0x45#8, 0x00#8, 0x11#8, 0x6D#8, 0x45#8]

/-- What one field of a next state holds. -/
def after {α : Type} (r : Result) (f : State → α) : Option α :=
  match r with
  | .next t => some (f t)
  | .fault _ => none
  | .refused _ => none

/-! ### Ill-formed source lines are refused (R67, R73, R74) -/

theorem test_wf_z_operand : SourceLine.wellFormed ⟨.core .nop, [0]⟩ = false := by decide
theorem test_wf_b_missing : SourceLine.wellFormed ⟨.core .pushf, []⟩ = false := by decide
theorem test_wf_b_two : SourceLine.wellFormed ⟨.core .setxn, [1, 2]⟩ = false := by decide
theorem test_wf_b_high : SourceLine.wellFormed ⟨.core .pushf, [256]⟩ = false := by decide
theorem test_wf_b_low : SourceLine.wellFormed ⟨.core .pushp, [-1]⟩ = false := by decide
theorem test_wf_x_one : SourceLine.wellFormed ⟨.core .bldrd, [0x6064]⟩ = false := by decide
theorem test_wf_x_index : SourceLine.wellFormed ⟨.core .bldrd, [0x10000, 0]⟩ = false := by decide
theorem test_wf_x_sub : SourceLine.wellFormed ⟨.core .bldrd, [0, 256]⟩ = false := by decide
theorem test_wf_v_none : SourceLine.wellFormed ⟨.core .vencU4, []⟩ = false := by decide
theorem test_wf_rxstart : SourceLine.wellFormed ⟨.pseudo .rxstart, [0]⟩ = false := by decide
theorem test_wf_ldf : SourceLine.wellFormed ⟨.pseudo .ldf, [0, 256]⟩ = false := by decide
theorem test_wf_ldp : SourceLine.wellFormed ⟨.pseudo .ldp, [-1]⟩ = false := by decide
theorem test_wf_crc8 : SourceLine.wellFormed ⟨.pseudo .crc8, [256]⟩ = false := by decide
theorem test_wf_rxchunk : SourceLine.wellFormed ⟨.pseudo .rxchunk, [1, 300]⟩ = false := by decide
theorem test_wf_resetreq : SourceLine.wellFormed ⟨.pseudo .resetreq, [0]⟩ = false := by decide
theorem test_wf_readreq : SourceLine.wellFormed ⟨.pseudo .readreq, [0x6064]⟩ = false := by decide
theorem test_wf_accepts : SourceLine.wellFormed ⟨.core .bldrd, [0xFFFF, 255]⟩ = true := by decide

/-! ### Words that are no operation (95 section 2.6) -/

theorem test_reserved_23 : decode 0x2300000000#40 = .error (.reservedOpcode 0x23#8) := by decide
theorem test_reserved_ff : decode 0xFF00000000#40 = .error (.reservedOpcode 0xFF#8) := by decide
theorem test_mbz_nop : decode 0x0000000001#40 = .error (.mustBeZero .nop 1#32) := by decide
theorem test_mbz_pushf : decode 0x1100000100#40 = .error (.mustBeZero .pushf 0x100#32) := by decide
theorem test_mbz_bldrd : decode 0x6101006064#40 = .error (.mustBeZero .bldrd 0x01006064#32) := by decide

/-! ### One word of each operation, from the encodings of R80 to R148 -/

theorem test_decode_nop : decode 0x0000000000#40 = .ok .nop := by decide
theorem test_decode_clrf : decode 0x1000000000#40 = .ok .clrf := by decide
theorem test_decode_pushf : decode 0x1100000053#40 = .ok (.pushf 0x53#8) := by decide
theorem test_decode_clrp : decode 0x1200000000#40 = .ok .clrp := by decide
theorem test_decode_pushp : decode 0x13000000AA#40 = .ok (.pushp 0xAA#8) := by decide
theorem test_decode_setxn : decode 0x1400000001#40 = .ok (.setxn 0x01#8) := by decide
theorem test_decode_setnode : decode 0x15000000FF#40 = .ok (.setnode 0xFF#8) := by decide
theorem test_decode_setcmd : decode 0x1600000001#40 = .ok (.setcmd 0x01#8) := by decide
theorem test_decode_crcinit : decode 0x2000000000#40 = .ok .crcinit := by decide
theorem test_decode_crcbyte : decode 0x2100000064#40 = .ok (.crcbyte 0x64#8) := by decide
theorem test_decode_crcf : decode 0x2200000000#40 = .ok .crcf := by decide
theorem test_decode_fenc : decode 0x3000000000#40 = .ok .fenc := by decide
theorem test_decode_fdec : decode 0x3100000000#40 = .ok .fdec := by decide
theorem test_decode_fchk : decode 0x3200000000#40 = .ok .fchk := by decide
theorem test_decode_vdecU : decode 0x40000000F1#40 = .ok (.vdecU 0xF1#8) := by decide
theorem test_decode_vdecS : decode 0x4100000003#40 = .ok (.vdecS 0x03#8) := by decide
theorem test_decode_vencU1 : decode 0x48000000FF#40 = .ok (.vencU1 0x000000FF#32) := by decide
theorem test_decode_vencU2 : decode 0x4900006064#40 = .ok (.vencU2 0x00006064#32) := by decide
theorem test_decode_vencU3 : decode 0x4A00800000#40 = .ok (.vencU3 0x00800000#32) := by decide
theorem test_decode_vencU4 : decode 0x4B12345678#40 = .ok (.vencU4 0x12345678#32) := by decide
theorem test_decode_vencS1 : decode 0x4CFFFFFF80#40 = .ok (.vencS1 0xFFFFFF80#32) := by decide
theorem test_decode_vencS2 : decode 0x4DFFFF8000#40 = .ok (.vencS2 0xFFFF8000#32) := by decide
theorem test_decode_vencS3 : decode 0x4E00800000#40 = .ok (.vencS3 0x00800000#32) := by decide
theorem test_decode_vencS4 : decode 0x4F80000000#40 = .ok (.vencS4 0x80000000#32) := by decide
theorem test_decode_recv : decode 0x5000000000#40 = .ok .recv := by decide
theorem test_decode_rxbyte : decode 0x5200000045#40 = .ok (.rxbyte 0x45#8) := by decide
theorem test_decode_rxend : decode 0x5300000000#40 = .ok .rxend := by decide
theorem test_decode_bldrst : decode 0x6000000000#40 = .ok .bldrst := by decide
theorem test_decode_bldrd : decode 0x6100026041#40 = .ok (.bldrd 0x6041#16 0x02#8) := by decide
theorem test_decode_table_word : decodeTableWord 40 0x6100026041 = some (.bldrd 0x6041#16 0x02#8) := by decide
theorem test_decode_table_refused : decodeTableWord 40 0x6200000000 = none := by decide

/-! ### The assembler (R73, R74; 95 section 3) -/

theorem test_asm_bldrd : assembleProgram ["BLDRD 0x6064, 0x00", "VENC.S4 -1 ; comment"] =
    some [0x6100006064#40, 0x4FFFFFFFFF#40] := by decide
theorem test_asm_pseudo : assembleProgram ["LDF 0x53 4", "RXCHUNK", "READREQ 0x6041, 2"] =
    some [0x1000000000#40, 0x1100000053#40, 0x1100000004#40, 0x1000000000#40, 0x5300000000#40, 0x6100026041#40,
      0x3000000000#40] := by decide
theorem test_asm_refuses : assembleText "PUSHF 256" = none := by decide

/-! ### Behaviour, on the vectors of 95_test_vectors.md -/

theorem test_nop_keeps_none : acceptWord 0x0000000000#40 State.reset = .next State.reset := by rfl
theorem test_clrf : after (execClrf (st none [] [0x53#8, 0x04#8] .sync)) (fun t => (t.fbuf, t.rxs, t.status)) =
    some ([], .empty, .ok) := by decide
theorem test_pushf : after (execPushf 0x04#8 (st none [] [0x53#8] .sync)) (fun t => (t.fbuf, t.rxs)) =
    some ([0x53#8, 0x04#8], .sync) := by decide
theorem test_clrp : after (execClrp (enc none (some 7#8) [0x64#8, 0x60#8])) (fun t => (t.pbuf, t.cmd)) =
    some ([], some 7#8) := by decide
theorem test_pushp : after (execPushp 0x00#8 (st none [0x64#8, 0x60#8] [] .empty)) State.pbuf =
    some [0x64#8, 0x60#8, 0x00#8] := by decide
theorem test_setxn : after (execSetxn 0x01#8 State.reset) (fun t => (t.xnode, t.node)) = some (some 0x01#8, none) := by
  decide
theorem test_setnode : after (execSetnode 0xFF#8 State.reset) (fun t => (t.node, t.cmd)) = some (some 0xFF#8, none) := by
  decide
theorem test_setcmd : after (execSetcmd 0x01#8 State.reset) (fun t => (t.cmd, t.node)) = some (some 0x01#8, none) := by
  decide
theorem test_crcinit : after (execCrcinit (State.reset.setAcc 0x56#8)) State.acc = some 0xFF#8 := by decide
theorem test_crcbyte : after (execCrcbyte 0x07#8 State.reset) State.acc = some 0x52#8 := by decide
theorem test_crcf : after (execCrcf (st none [] request .empty)) State.acc = some 0xE9#8 := by decide +kernel
theorem test_crcf_empty : after (execCrcf (State.reset.setAcc 0x00#8)) State.acc = some 0xFF#8 := by decide
theorem test_crc8_check : crc8 [0x31#8, 0x32#8, 0x33#8, 0x34#8, 0x35#8, 0x36#8, 0x37#8, 0x38#8, 0x39#8] = 0x64#8 := by
  decide +kernel
theorem test_fenc : after (execFenc (enc (some 0x01#8) (some 0x01#8) [0x64#8, 0x60#8, 0x00#8]))
    (fun t => (t.fbuf, t.csum)) = some (request, some 0x56#8) := by decide +kernel
theorem test_fenc_too_large : after (execFenc (enc (some 0x01#8) (some 0x00#8) (zeros 59)))
    (fun t => (t.fbuf, t.csum, t.status)) = some ([], none, .error .payloadTooLarge) := by decide +kernel
theorem test_fdec : after (execFdec (st (some 0x01#8) [] response .empty)) (fun t => (t.node, t.cmd, t.pbuf, t.csum)) =
    some (some 0x01#8, some 0x01#8, [0x64#8, 0x60#8, 0x00#8, 0x09#8, 0x00#8, 0x00#8, 0x00#8], some 0x53#8) := by decide +kernel
theorem test_fdec_no_wrap : after (execFdec (st (some 0x01#8) [1#8] [0x53#8, 0xFF#8, 0x01#8, 0x00#8, 0x50#8, 0x45#8] .empty))
    (fun t => (t.node, t.pbuf, t.status)) = some (none, [], .error .lengthMismatch) := by decide
theorem test_fchk_order : after (execFchk (st (some 0x01#8) [] [0x53#8, 0x04#8, 0x02#8, 0x00#8, 0x50#8, 0x45#8] .empty))
    State.status = some (.error .wrongNode) := by decide
theorem test_fchk_checksum :
    after (execFchk (st (some 0x01#8) [] [0x53#8, 0x04#8, 0x01#8, 0x01#8, 0x50#8, 0x45#8] .empty)) State.status =
      some (.error .checksumMismatch) := by decide +kernel
theorem test_vdecU : after (execVdecU 0x00#8 (st none [0x00#8, 0x00#8, 0x00#8, 0x80#8] [] .empty))
    (fun t => (t.val, t.vw)) = some (some 0x80000000#32, some 4#3) := by decide +kernel
theorem test_vdecS : after (execVdecS 0x00#8 (st none [0xFF#8, 0xFF#8] [] .empty)) (fun t => (t.val, t.vw)) =
    some (some 0xFFFFFFFF#32, some 2#3) := by decide +kernel
theorem test_vdecS_sign_of_last_byte : decodeValue [0x80#8, 0x00#8] true = .ok 128 := by decide +kernel
theorem test_vencU1 : after (execVencU1 0x00000100#32 State.reset) (fun t => (t.pbuf, t.status)) =
    some ([], .error .valueRange) := by decide +kernel
theorem test_vencU2 : after (execVencU2 0x00006064#32 State.reset) State.pbuf = some [0x64#8, 0x60#8] := by decide +kernel
theorem test_vencU3 : after (execVencU3 0x00800000#32 State.reset) State.pbuf = some [0x00#8, 0x00#8, 0x80#8] := by
  decide +kernel
theorem test_vencU4 : after (execVencU4 0x12345678#32 State.reset) State.pbuf = some [0x78#8, 0x56#8, 0x34#8, 0x12#8] := by
  decide +kernel
theorem test_vencS1 : after (execVencS1 0xFFFFFF80#32 State.reset) State.pbuf = some [0x80#8] := by decide +kernel
theorem test_vencS1_range : after (execVencS1 0xFFFFFF7F#32 State.reset) State.status = some (.error .valueRange) := by
  decide +kernel
theorem test_vencS2 : after (execVencS2 0xFFFF8000#32 State.reset) State.pbuf = some [0x00#8, 0x80#8] := by decide +kernel
theorem test_vencS3 : after (execVencS3 0x00800000#32 State.reset) State.status = some (.error .valueRange) := by
  decide +kernel
theorem test_vencS4 : after (execVencS4 0x80000000#32 State.reset) State.pbuf = some [0x00#8, 0x00#8, 0x00#8, 0x80#8] := by
  decide +kernel
theorem test_venc_range_before_room :
    after (execVencS2 0x00008000#32 (st none (zeros 64) [] .empty)) State.status = some (.error .valueRange) := by
  decide +kernel
theorem test_recv : after (execRecv (st (some 0x01#8) [] ([0xAA#8, 0x45#8] ++ resetFrame) .empty))
    (fun t => (t.fbuf, t.node, t.csum, t.status)) = some (resetFrame, some 0x01#8, some 0x50#8, .ok) := by decide +kernel
theorem test_recv_first_marker_only : after (execRecv (st (some 0x01#8) [] ([0x53#8] ++ resetFrame) .empty))
    (fun t => (t.fbuf, t.status)) = some ([0x53#8] ++ resetFrame, .error .lengthMismatch) := by decide
theorem test_rxbyte_marker : after (execRxbyte 0x53#8 (st none [] [9#8] .hunt)) (fun t => (t.fbuf, t.rxs)) =
    some ([0x53#8], .sync) := by decide
theorem test_rxbyte_overflow : after (execRxbyte 0x45#8 (st none [] (0x53#8 :: zeros 63) .sync))
    (fun t => (t.fbuf.length, t.rxs, t.status)) = some (64, .ovf, .error .bufferOverflow) := by decide +kernel
theorem test_rxend : after (execRxend (st (some 0x01#8) [] resetFrame .sync)) (fun t => (t.node, t.rxs, t.fbuf)) =
    some (some 0x01#8, .empty, resetFrame) := by decide +kernel
theorem test_rxend_empty : after (execRxend (st (some 0x01#8) [3#8] resetFrame .empty)) (fun t => (t.pbuf, t.status)) =
    some ([], .error .noData) := by decide
theorem test_bldrst : after (execBldrst (st none [0xAA#8, 0xBB#8] [] .empty)) (fun t => (t.pbuf, t.cmd)) =
    some ([], some 0x00#8) := by decide
theorem test_bldrd : after (execBldrd 0x6064#16 0x00#8 (st none [0xAA#8] [] .empty)) (fun t => (t.pbuf, t.cmd)) =
    some ([0x64#8, 0x60#8, 0x00#8], some 0x01#8) := by decide

/-! ### The step -/

theorem test_first_word_after_reset :
    after (step (State.reset.withFetchWord 40 0x1400000001)) (fun t => (t.xnode, t.inputs)) = some (some 0x01#8, []) := by
  decide
theorem test_refused_at_reset : step (State.reset.withFetchWord 40 0x3100000000) = .refused (.noValue .xnode) := by rfl

/-! ### Witnesses: the hypotheses of each statement can be met, clause by clause, at the ends of their ranges -/

theorem test_witness_NopChangesNothing : (1#32 : Word32) ≠ 0#32 := by decide

theorem test_witness_PushfAppendsOrReportsOverflow :
    (st none [] (zeros 63) .empty).fbuf.length ≠ 64 ∧ (st none [] (zeros 64) .empty).fbuf.length = 64 := by decide

theorem test_witness_PushpAppendsOrReportsOverflow :
    (st none (zeros 63) [] .empty).pbuf.length ≠ 64 ∧ (st none (zeros 64) [] .empty).pbuf.length = 64 := by decide

theorem test_witness_CrcIsLinearAndABijection : [1#8, 2#8].length = [3#8, 0xFF#8].length := by decide

theorem test_witness_CrcSeesOneFlipAndMissesTwoApart :
    (0 < (zeros 1).length ∧ 7 < 8) ∧ (61 < (zeros 62).length ∧ 0 < 8) ∧ (0 + 3 < (zeros 4).length ∧ 7 < 8) := by decide

theorem test_witness_EncodeBuildsTheFrame :
    (zeros 0).length ≤ 58 ∧ (zeros 58).length ≤ 58 ∧ 58 < (zeros 59).length := by decide

theorem test_witness_FencPlacesTheFrame :
    (State.reset.node = none ∨ State.reset.cmd = none) ∧
    ((enc (some 1#8) none []).node = none ∨ (enc (some 1#8) none []).cmd = none) ∧
    ((enc (some 1#8) (some 0#8) (zeros 58)).node = some 1#8 ∧ (enc (some 1#8) (some 0#8) (zeros 58)).cmd = some 0#8 ∧
      (enc (some 1#8) (some 0#8) (zeros 58)).pbuf.length ≤ 58) ∧
    ((enc (some 1#8) (some 0#8) (zeros 59)).node = some 1#8 ∧ (enc (some 1#8) (some 0#8) (zeros 59)).cmd = some 0#8 ∧
      58 < (enc (some 1#8) (some 0#8) (zeros 59)).pbuf.length) := by decide

/-- Each kind and the success; the vectors of 95 section 2.3. -/
theorem test_witness_DecodeReportsTheFirstFailingCheck :
    decodeFrame [0x53#8, 0x04#8, 0x01#8, 0x00#8, 0x50#8] 0x01#8 = .error .truncated ∧
    decodeFrame [0x53#8, 0x04#8, 0x01#8, 0x00#8, 0x50#8, 0x44#8] 0x01#8 = .error .badDelimiter ∧
    decodeFrame [0x53#8, 0x03#8, 0x01#8, 0x00#8, 0x50#8, 0x45#8] 0x01#8 = .error .lengthMismatch ∧
    decodeFrame [0x53#8, 0x04#8, 0x02#8, 0x00#8, 0x06#8, 0x45#8] 0x01#8 = .error .wrongNode ∧
    decodeFrame [0x53#8, 0x04#8, 0x01#8, 0x00#8, 0x51#8, 0x45#8] 0x01#8 = .error .checksumMismatch ∧
    decodeFrame resetFrame 0x01#8 = .ok ⟨0x01#8, 0x00#8, [], 0x50#8⟩ := by decide +kernel

theorem test_witness_FdecDeliversOrInvalidates :
    State.reset.xnode = none ∧ (st (some 0x01#8) [] resetFrame .empty).xnode = some 0x01#8 ∧
    decodeFrame (st (some 0x01#8) [] resetFrame .empty).fbuf 0x01#8 = .ok ⟨0x01#8, 0x00#8, [], 0x50#8⟩ ∧
    decodeFrame (st (some 0x02#8) [] resetFrame .empty).fbuf 0x02#8 = .error .wrongNode := by decide +kernel

theorem test_witness_FchkWritesTheVerdictOnly :
    State.reset.xnode = none ∧ (st (some 0x01#8) [] resetFrame .empty).xnode = some 0x01#8 ∧
    isValidFrame (st (some 0x01#8) [] resetFrame .empty).fbuf 0x01#8 = true ∧
    decodeFrame (st (some 0x01#8) [] [] .empty).fbuf 0x01#8 = .error .truncated := by decide +kernel

theorem test_witness_ValidFrameIsWhatDecodeAccepts : (zeros 0).length ≤ 58 ∧ (zeros 58).length ≤ 58 := by decide

theorem test_witness_FrameRoundTrip :
    (zeros 58).length ≤ 58 ∧
    (let s : State := { enc (some 0x45#8) (some 0x53#8) (zeros 58) with xnode := some 0x45#8 }
     s.node = some 0x45#8 ∧ s.xnode = some 0x45#8 ∧ s.cmd = some 0x53#8 ∧ s.pbuf.length ≤ 58) := by decide

/-- Prefixes of 1, 5, 6 and 9 bytes: all three clauses. -/
theorem test_witness_TruncatedFramesAreRejected :
    decodeFrame markerInside 0x01#8 = .ok ⟨0x01#8, 0x01#8, [0x64#8, 0x45#8, 0x00#8, 0x11#8], 0x6D#8⟩ ∧
    (0 < 1 ∧ 1 < markerInside.length ∧ 1 < 6) ∧ (5 < markerInside.length ∧ 5 < 6) ∧
    (6 < markerInside.length ∧ markerInside[6 - 1]? = some 0x45#8) ∧
    (9 < markerInside.length ∧ markerInside[9 - 1]? ≠ some 0x45#8) := by decide +kernel

/-- The first, the second, the third, the fourth and the last byte. -/
theorem test_witness_OneFlippedBitIsRejectedByItsPlace :
    decodeFrame resetFrame 0x01#8 = .ok ⟨0x01#8, 0x00#8, [], 0x50#8⟩ ∧ 0 < resetFrame.length ∧ 1 < resetFrame.length ∧
    2 < resetFrame.length ∧ 3 < resetFrame.length ∧ 5 < resetFrame.length ∧ 5 = resetFrame.length - 1 ∧ 7 < 8 := by
  decide +kernel

theorem test_witness_ShortLengthByteIsRejected :
    [0x53#8, 0x03#8, 0x01#8, 0x00#8, 0x50#8, 0x45#8][1]? = some 0x03#8 ∧ (0x03#8).toNat < 4 := by decide

theorem test_witness_DecodeValueIsTheSignedSum :
    [0x80#8] ≠ [] ∧ decodeValue [0x80#8] true = .ok (-128) ∧ decodeValue [0x7F#8] true = .ok 127 ∧
    decodeValue [0x80#8] false = .ok 128 := by decide +kernel

theorem test_witness_ValIsTheExtendedValue :
    decodeValue [0xFF#8] true = .ok (-1) ∧ decodeValue [0x00#8, 0x00#8, 0x00#8, 0x80#8] true = .ok (-2147483648) ∧
    decodeValue [0xFF#8] false = .ok 255 ∧ decodeValue [0x00#8, 0x00#8, 0x00#8, 0x80#8] false = .ok 2147483648 ∧
    1 ≤ [0xFF#8].length ∧ [0x00#8, 0x00#8, 0x00#8, 0x80#8].length ≤ 4 := by decide +kernel

/-- With seven bytes in PBUF: offsets 7 (none left), 6 (one left), 3 (four left), 2 (five left). -/
theorem test_witness_VdecDecodesWhatRemains :
    (st none (zeros 7) [] .empty).pbuf.length ≤ (7#8).toNat ∧
    ((6#8).toNat < (st none (zeros 7) [] .empty).pbuf.length ∧ (st none (zeros 7) [] .empty).pbuf.length ≤ (6#8).toNat + 4) ∧
    ((3#8).toNat < (st none (zeros 7) [] .empty).pbuf.length ∧ (st none (zeros 7) [] .empty).pbuf.length ≤ (3#8).toNat + 4) ∧
    (2#8).toNat + 4 < (st none (zeros 7) [] .empty).pbuf.length := by decide

/-- One byte, unsigned and signed, at the ends of the ranges, with room for it and without. -/
theorem test_witness_VencAppendsTheLowBytes :
    (¬ (0x100#32).toNat < 2 ^ (8 * 1) ∧ (0xFF#32).toNat < 2 ^ (8 * 1) ∧ (0xFFFFFFFF#32).toNat < 2 ^ (8 * 4)) ∧
    (¬ (-(2 ^ (8 * 1 - 1)) ≤ (0xFFFFFF7F#32).toInt ∧ (0xFFFFFF7F#32).toInt < 2 ^ (8 * 1 - 1))) ∧
    (¬ (-(2 ^ (8 * 1 - 1)) ≤ (0x80#32).toInt ∧ (0x80#32).toInt < 2 ^ (8 * 1 - 1))) ∧
    (-(2 ^ (8 * 1 - 1)) ≤ (0xFFFFFF80#32).toInt ∧ (0xFFFFFF80#32).toInt < 2 ^ (8 * 1 - 1)) ∧
    (-(2 ^ (8 * 1 - 1)) ≤ (0x7F#32).toInt ∧ (0x7F#32).toInt < 2 ^ (8 * 1 - 1)) ∧
    64 < (st none (zeros 64) [] .empty).pbuf.length + 1 ∧ (st none (zeros 63) [] .empty).pbuf.length + 1 ≤ 64 := by
  decide +kernel

theorem test_witness_ValueCodecDirectionsAreInverse :
    (1 ≤ 1 ∧ 1 ≤ 4) ∧ (1 ≤ 4 ∧ 4 ≤ 4) ∧ fits (-128) 1 true = true ∧ fits 255 1 false = true ∧
    fits 2147483647 4 true = true ∧ fits 2147483647 4 false = true ∧ [0x80#8].length = 1 := by decide +kernel

theorem test_witness_ReceiveFollowsItsFourSteps :
    ([0x00#8] ≠ [] ∧ 0x53#8 ∉ [0x00#8]) ∧
    ([0xAA#8, 0x45#8, 0x53#8, 0x53#8][2]? = some 0x53#8 ∧
      ∀ j, j < 2 → [0xAA#8, 0x45#8, 0x53#8, 0x53#8][j]? ≠ some 0x53#8) := by decide

/-- No byte; no start marker; the marker at index 2 with a valid slice; the marker at index 0 with a slice too short. -/
theorem test_witness_RecvKeepsTheSliceAndDelivers :
    State.reset.xnode = none ∧ (st (some 1#8) [] [] .empty).xnode = some 1#8 ∧ (st (some 1#8) [] [] .empty).fbuf = [] ∧
    ((st (some 1#8) [] [0#8] .empty).fbuf ≠ [] ∧ 0x53#8 ∉ (st (some 1#8) [] [0#8] .empty).fbuf) ∧
    (([0xAA#8, 0x45#8] ++ resetFrame)[2]? = some 0x53#8 ∧
      (∀ j, j < 2 → ([0xAA#8, 0x45#8] ++ resetFrame)[j]? ≠ some 0x53#8) ∧
      decodeFrame (([0xAA#8, 0x45#8] ++ resetFrame).drop 2) 1#8 = .ok ⟨1#8, 0#8, [], 0x50#8⟩) ∧
    ([0x53#8][0]? = some 0x53#8 ∧ (∀ j, j < 0 → [0x53#8][j]? ≠ some 0x53#8) ∧
      decodeFrame ([0x53#8].drop 0) 1#8 = .error .truncated) := by decide +kernel

theorem test_witness_NoiseBeforeTheMarkerIsDiscarded : 0x53#8 ∉ ([] : List Byte) ∧ 0x53#8 ∉ [0x00#8, 0x45#8] := by decide

theorem test_witness_RxbyteFollowsTheTransitionTable :
    (st none [] [] .empty).rxs = .empty ∧ (st none [] [] .hunt).rxs = .hunt ∧ (0x54#8 : Byte) ≠ 0x53#8 ∧
    ((st none [] (0x53#8 :: zeros 62) .sync).rxs = .sync ∧ (st none [] (0x53#8 :: zeros 62) .sync).fbuf.length ≠ 64) ∧
    ((st none [] (0x53#8 :: zeros 63) .sync).rxs = .sync ∧ (st none [] (0x53#8 :: zeros 63) .sync).fbuf.length = 64) ∧
    (st none [] (0x53#8 :: zeros 63) .ovf).rxs = .ovf := by decide

theorem test_witness_RxendDeliversTheVerdict :
    State.reset.xnode = none ∧ (st (some 1#8) [] [] .empty).xnode = some 1#8 ∧
    (st (some 1#8) [] [] .empty).rxs = .empty ∧ (st (some 1#8) [] [] .hunt).rxs = .hunt ∧
    (st (some 1#8) [] (0x53#8 :: zeros 63) .ovf).rxs = .ovf ∧
    ((st (some 1#8) [] [0x53#8] .sync).rxs = .sync ∧
      decodeFrame (st (some 1#8) [] [0x53#8] .sync).fbuf 1#8 = .error .truncated) ∧
    ((st (some 1#8) [] resetFrame .sync).rxs = .sync ∧
      decodeFrame (st (some 1#8) [] resetFrame .sync).fbuf 1#8 = .ok ⟨1#8, 0#8, [], 0x50#8⟩) := by decide +kernel

/-- No byte, noise only, and a slice of exactly 64 bytes after noise. -/
theorem test_witness_ReceiverTracksTheChunk :
    (([] : List Byte).dropWhile fun b => b != 0x53#8).length ≤ 64 ∧
    ((zeros 65).dropWhile fun b => b != 0x53#8).length ≤ 64 ∧
    ((zeros 2 ++ 0x53#8 :: zeros 63).dropWhile fun b => b != 0x53#8).length ≤ 64 := by decide +kernel

theorem test_witness_BytewiseAndBatchReceptionAgree :
    (st (some 1#8) [] [] .empty).xnode = some 1#8 ∧
    ((zeros 2 ++ 0x53#8 :: zeros 63).dropWhile fun b => b != 0x53#8).length ≤ 64 ∧
    (0x53#8 :: zeros 63).length ≤ 64 ∧ receive resetFrame 1#8 = .ok ⟨1#8, 0#8, [], 0x50#8⟩ ∧
    receive [] 1#8 = .error .noData := by decide +kernel

theorem test_witness_BuildersReplacePayloadAndCommand : 2 ^ 24 ≤ (0x01000000#32).toNat := by decide

theorem test_witness_ReadRequestFrameOnTheWire : (enc (some 0x01#8) none []).node = some 0x01#8 := by decide

theorem test_witness_EncodeOfDecodeIsTheWord : decode 0x6100FFFFFF#40 = .ok (.bldrd 0xFFFF#16 0xFF#8) := by decide

theorem test_witness_DecoderAgreesWithTheTable :
    decode 0x1100000053#40 = .ok (.pushf 0x53#8) ∧
    ∃ r ∈ opcodeTable, r = ⟨.pushf, 0x1100000000#40, rowMask .b⟩ ∧ 0x1100000053#40 &&& r.mask = r.pattern := by decide

/-- The two ends of every reserved range. -/
theorem test_witness_ReservedOpcodesAreIllegal :
    ∀ op ∈ [0x01#8, 0x0F#8, 0x17#8, 0x1F#8, 0x23#8, 0x2F#8, 0x33#8, 0x3F#8, 0x42#8, 0x47#8, 0x51#8, 0x54#8, 0x5F#8,
      0x62#8, 0xFF#8], decode (op ++ 0#32) = .error (.reservedOpcode op) := by decide +kernel

/-- The lowest must-be-zero bit of each form. -/
theorem test_witness_MustBeZeroBitsAreIllegal :
    (0x53#8 ∈ [0x00#8, 0x10#8, 0x12#8, 0x20#8, 0x22#8, 0x30#8, 0x31#8, 0x32#8, 0x50#8, 0x53#8, 0x60#8] ∧ 1#32 ≠ 0#32) ∧
    (0x52#8 ∈ [0x11#8, 0x13#8, 0x14#8, 0x15#8, 0x16#8, 0x21#8, 0x40#8, 0x41#8, 0x52#8] ∧ 2 ^ 8 ≤ (0x100#32).toNat) ∧
    2 ^ 24 ≤ (0x01000000#32).toNat := by decide

theorem test_witness_StepRunsTheDecodedOperation :
    (State.reset.setInputs [issueEdge 0x1400000001#40]).inputs =
      { rst := false, opValid := true, opReady := true, opWord := 0x1400000001#40 } :: [] ∧
    decode 0x1400000001#40 = .ok (.setxn 0x01#8) := by decide

theorem test_witness_StepOnAnIllegalWordWritesStatusOnly :
    (State.reset.setInputs [issueEdge 0x2300000000#40]).inputs =
      { rst := false, opValid := true, opReady := true, opWord := 0x2300000000#40 } :: [] ∧
    decode 0x2300000000#40 = .error (.reservedOpcode 0x23#8) := by decide

/-- A reset at an edge where a word is presented too. -/
theorem test_witness_ResetEdgeSetsEveryItem :
    ({ issueEdge 0x1400000001#40 with rst := true } : Edge).rst = true ∧
    step ((st (some 1#8) [1#8] [2#8] .hunt).setInputs [{ issueEdge 0x1400000001#40 with rst := true }]) =
      .next State.reset := ⟨rfl, rfl⟩

theorem test_witness_NothingHappensWithoutAnAcceptedWord :
    (({ issueEdge 0#40 with opReady := false } : Edge).rst = false ∧
      ({ issueEdge 0#40 with opReady := false } : Edge).opReady = false) ∧
    ({ issueEdge 0#40 with opValid := false } : Edge).opValid = false ∧ State.reset.inputs = [] := by decide

theorem test_witness_EveryStepKeepsTheInvariant :
    inv ((st none [] (0x53#8 :: zeros 63) .sync).setInputs [issueEdge 0x5200000045#40]) = true ∧
    step ((st none [] (0x53#8 :: zeros 63) .sync).setInputs [issueEdge 0x5200000045#40]) =
      .next ((st none [] (0x53#8 :: zeros 63) .ovf).setStatus (.error .bufferOverflow)) := ⟨by decide +kernel, rfl⟩

theorem test_witness_ReachableStatesSatisfyTheInvariants :
    Host.Core.run Sys2Proof.core 1 { State.reset with inputs := [issueEdge 0x5200000053#40] } =
      .next ((st none [] [0x53#8] .sync).setStatus .ok) := rfl

/-- Two states that differ outside the read set of CRCF; and a refusal in both. -/
theorem test_witness_ReadAndWriteSetsAreComplete :
    (∀ k ∈ readSet .crcf, sameItem k (st none [1#8] [7#8] .hunt) (st (some 1#8) [] [7#8] .empty)) ∧
    exec .crcf (st none [1#8] [7#8] .hunt) =
      .next (((st none [1#8] [7#8] .hunt).setAcc (crc8 [7#8])).setStatus .ok) ∧
    exec .fchk State.reset = .refused (.noValue .xnode) := by
  refine ⟨?_, rfl, rfl⟩
  intro k hk
  rw [show k = .fbuf from by simpa [readSet] using hk]
  rfl

theorem test_witness_OperationsReportOnlyTheirKinds :
    Instr.rxend ≠ .nop ∧ after (exec .rxend (st (some 1#8) [] (zeros 64) .ovf)) State.status =
      some (.error .bufferOverflow) := by decide +kernel

/-- Every operation of the list completes somewhere; FENC with both outcomes. -/
theorem test_witness_ListedOperationsAreIdempotent :
    ([Instr.nop, .clrf, .clrp, .setxn 1#8, .setnode 1#8, .setcmd 1#8, .crcinit, .crcf, .fchk, .bldrst, .bldrd 1#16 1#8,
      .fdec].all fun i => (after (exec i (st (some 1#8) [] [] .empty)) State.status).isSome) = true ∧
    after (exec .fenc (enc (some 1#8) (some 1#8) [])) State.status = some .ok ∧
    after (exec .fenc (enc (some 1#8) (some 1#8) (zeros 59))) State.status = some (.error .payloadTooLarge) := by
  decide +kernel

/-- Every operation that can fail does so somewhere. -/
theorem test_witness_FailureInvalidatesItsDestinations :
    after (exec .fenc (enc (some 1#8) (some 1#8) (zeros 59))) State.status = some (.error .payloadTooLarge) ∧
    ([Instr.fdec, .fchk, .recv, .rxend, .vdecU 0#8, .vdecS 0#8].all fun i =>
      !(after (exec i (st (some 1#8) [] [] .empty)) State.status == some .ok)) = true ∧
    ([Instr.vencU1 1#32, .vencU2 1#32, .vencU3 1#32, .vencU4 1#32, .vencS1 1#32, .vencS2 1#32, .vencS3 1#32,
      .vencS4 1#32, .pushp 1#8, .pushf 1#8, .rxbyte 1#8].all fun i =>
        after (exec i (st none (zeros 64) (zeros 64) .ovf)) State.status == some (.error .bufferOverflow)) = true ∧
    after (exec .nop (State.reset.setStatus (.error .wrongNode))) State.status = some (.error .wrongNode) := by
  decide +kernel

theorem test_witness_ReadPortPresentsTheState :
    (st (some 1#8) [9#8] [8#8] .empty).xnode = some 1#8 ∧ (enc (some 2#8) (some 3#8) []).node = some 2#8 ∧
    (enc (some 2#8) (some 3#8) []).cmd = some 3#8 ∧ (State.reset.setCsum (some 4#8)).csum = some 4#8 ∧
    (State.reset.setVal (some 5#32)).val = some 5#32 ∧ (State.reset.setVw (some 1#3)).vw = some 1#3 ∧
    (st none [9#8] [8#8] .empty).pbuf[(0#8).toNat]? = some 9#8 ∧
    (st none [9#8] [8#8] .empty).fbuf[(0#8).toNat]? = some 8#8 ∧
    (st none [9#8] [8#8] .empty).pbuf.length ≤ (1#8).toNat ∧ (st none [9#8] [8#8] .empty).fbuf.length ≤ (1#8).toNat ∧
    (8#8).toNat = 8 ∧ 12 ≤ (12#8).toNat ∧ 12 ≤ (255#8).toNat := by decide

end Sys2Proof.Tests
end

