-- ==== Sys2Proof/Proofs/EngineState.lean ====
section
/-! The state of the engine (10_state.md): what an edge and an operation can answer, the invariants of R33 along every
run, the codes of STATUS and RXS, and the read port. -/

/-! ### What an edge, a run and an operation can answer -/

namespace Sys2Proof.Machine

open Sys2Proof.Safety

/-- The step at an edge where the engine takes the word `w` (R30). -/
theorem step_accepted {s : State} {w : OpWord} {rest : List Edge} (h : s.inputs = issueEdge w :: rest) :
    step s = acceptWord w (s.setInputs rest) :=
  step_edge h

theorem clockEdge_of_rst {e : Edge} (h : e.rst = true) (s : State) : clockEdge e s = .next (applyReset s) := by
  simp [clockEdge, h]

theorem clockEdge_of_not_accepts {e : Edge} (hr : e.rst = false) (ha : e.opValid = false ∨ e.opReady = false)
    (s : State) : clockEdge e s = .next s := by
  obtain hv | hy := ha
  · simp [clockEdge, Edge.accepts, hr, hv]
  · simp [clockEdge, Edge.accepts, hr, hy]

/-- `P` holds of the state `r` answers, if it answers one. -/
def AnswersOnly (P : State → Prop) (r : Result) : Prop := ∀ t, r = .next t → P t

section
variable {P : State → Prop}

theorem answersOnly_next {t : State} (h : P t) : AnswersOnly P (.next t) := by
  rintro _ ⟨⟩
  exact h

theorem answersOnly_withXnode {s : State} {k : Byte → Result} (h : ∀ x, AnswersOnly P (k x)) :
    AnswersOnly P (withXnode s k) := by
  intro t ht
  obtain ⟨-, e⟩ | ⟨x, -, e⟩ := withXnode_cases s k <;> rw [e] at ht
  · cases ht
  · exact h x t ht

theorem answersOnly_withNode {s : State} {k : Byte → Result} (h : ∀ n, AnswersOnly P (k n)) :
    AnswersOnly P (withNode s k) := by
  intro t ht
  obtain ⟨-, e⟩ | ⟨n, -, e⟩ := withNode_cases s k <;> rw [e] at ht
  · cases ht
  · exact h n t ht

theorem answersOnly_withCmd {s : State} {k : Byte → Result} (h : ∀ c, AnswersOnly P (k c)) :
    AnswersOnly P (withCmd s k) := by
  intro t ht
  obtain ⟨-, e⟩ | ⟨c, -, e⟩ := withCmd_cases s k <;> rw [e] at ht
  · cases ht
  · exact h c t ht

/-- What every step keeps holds of every state a run reaches. -/
theorem run_keeps (hstep : ∀ s t, P s → step s = .next t → P t) (n : Nat) {s t : State} (hs : P s)
    (hrun : Host.Core.run Sys2Proof.core n s = .next t) : P t := by
  induction n generalizing s with
  | zero =>
    rw [run_zero] at hrun
    cases hrun
    exact hs
  | succ n ih =>
    cases e : step s with
    | next u =>
      rw [run_succ_of_next n e] at hrun
      exact ih (hstep s u hs e) hrun
    | fault r => cases r
    | refused r =>
      rw [run_succ_of_refused n e] at hrun
      cases hrun

end

/-! ### Refusals (R12, R176) -/

/-- An operation that reads XNODE alone is refused or completes, by whether XNODE holds a value. -/
theorem withXnode_next_cases (s : State) (f : Byte → State) :
    (s.xnode.isSome = false ∧ ∃ r, withXnode s (fun x => .next (f x)) = .refused (.noValue r)) ∨
      (s.xnode.isSome = true ∧ ∃ t, withXnode s (fun x => .next (f x)) = .next t) := by
  obtain ⟨h, e⟩ | ⟨x, h, e⟩ := withXnode_cases s fun x => .next (f x)
  · exact .inl ⟨by simp [h], _, e⟩
  · exact .inr ⟨by simp [h], _, e⟩

/-- FENC is refused when NODE or CMD holds no value and completes otherwise (R103). -/
theorem execFenc_cases (s : State) :
    ((s.node.isSome && s.cmd.isSome) = false ∧ ∃ r, execFenc s = .refused (.noValue r)) ∨
      ((s.node.isSome && s.cmd.isSome) = true ∧ ∃ t, execFenc s = .next t) := by
  unfold execFenc
  obtain ⟨hn, e⟩ | ⟨n, hn, e⟩ := withNode_cases s fun n => withCmd s fun c => .next (placeFrame n c s)
  · exact .inl ⟨by simp [hn], _, e⟩
  · obtain ⟨hc, e'⟩ | ⟨c, hc, e'⟩ := withCmd_cases s fun c => .next (placeFrame n c s)
    · exact .inl ⟨by simp [hc], _, e.trans e'⟩
    · exact .inr ⟨by simp [hn, hc], _, e.trans e'⟩

/-- All that an operation can answer: refused without its operands, and a next state with them. -/
theorem exec_cases (i : Instr) (s : State) :
    (operandsHeld i s = false ∧ ∃ r, exec i s = .refused (.noValue r)) ∨
      (operandsHeld i s = true ∧ ∃ t, exec i s = .next t) := by
  cases i with
  | fenc => exact execFenc_cases s
  | fdec => exact withXnode_next_cases s _
  | fchk => exact withXnode_next_cases s _
  | recv => exact withXnode_next_cases s _
  | rxend => exact withXnode_next_cases s _
  | _ => exact .inr ⟨rfl, _, rfl⟩

/-! ### Lengths and codes -/

/-- A payload that `receive` returns is no longer than the bytes it was given. -/
theorem receive_payload_length {buf : List Byte} {x : Byte} {f : Frame} (h : receive buf x = .ok f) :
    f.payload.length ≤ buf.length := by
  unfold receive at h
  split at h
  · cases h
  split at h
  · cases h
  exact (decodeFrame_payload_length h).trans (fromStartMarker_length buf)

/-- A payload that RXEND delivers is no longer than FBUF. -/
theorem chunkVerdict_payload_length {s : State} {x : Byte} {f : Frame} (h : chunkVerdict s x = .ok f) :
    f.payload.length ≤ s.fbuf.length := by
  unfold chunkVerdict at h
  split at h
  · cases h
  · cases h
  · exact decodeFrame_payload_length h
  · cases h

/-- A value is decoded from at least one byte (R122). -/
theorem decodeValue_ok_length_pos {bytes : List Byte} {signed : Bool} {v : Int}
    (h : decodeValue bytes signed = .ok v) : 1 ≤ bytes.length := by
  cases bytes with
  | nil => cases h
  | cons b bs => exact Nat.succ_pos _

/-- Code 14 is never presented (U7). -/
theorem statusCode_ne_fourteen (v : Status) : statusCode v ≠ 14#4 := by
  cases v with
  | ok => decide
  | error k => cases k <;> decide
  | none => decide

/-! ### The read port (R29) -/

/-- The port answers `rd_valid = 1` exactly where there is a word. -/
theorem hostRead_valid (instant : Nat) (space : BitVec 2) (index : Byte) (s : State) :
    (hostRead instant space index s).valid = (spaceWord s space index).isSome := by
  unfold hostRead
  cases spaceWord s space index <;> rfl

theorem hostRead_of_some {s : State} {space : BitVec 2} {index : Byte} {v : Word32}
    (h : spaceWord s space index = some v) (instant : Nat) : hostRead instant space index s = ⟨true, v⟩ := by
  simp [hostRead, h]

theorem hostRead_valid_of_none {s : State} {space : BitVec 2} {index : Byte}
    (h : spaceWord s space index = none) (instant : Nat) : (hostRead instant space index s).valid = false := by
  rw [hostRead_valid, h]
  rfl

theorem spaceWord_zero (s : State) (number : Byte) : spaceWord s 0#2 number = registerWord s number := rfl

theorem spaceWord_one (s : State) (i : Byte) : spaceWord s 1#2 i = bufferWord s.pbuf i := rfl

theorem spaceWord_two (s : State) (i : Byte) : spaceWord s 2#2 i = bufferWord s.fbuf i := rfl

theorem spaceWord_three (s : State) (i : Byte) : spaceWord s 3#2 i = none := rfl

theorem bufferWord_of_getElem? {buf : List Byte} {i v : Byte} (h : buf[i.toNat]? = some v) :
    bufferWord buf i = some (v.setWidth 32) := by
  simp [bufferWord, h]

theorem bufferWord_of_length_le {buf : List Byte} {i : Byte} (h : buf.length ≤ i.toNat) : bufferWord buf i = none := by
  simp [bufferWord, h]

/-- A register that always holds a value. -/
theorem hostRead_register {s : State} {number : Byte} {v : Word32} (h : registerWord s number = some v)
    (instant : Nat) : hostRead instant 0#2 number s = ⟨true, v⟩ :=
  hostRead_of_some ((spaceWord_zero s number).trans h) instant

section
variable {s : State} {number : Byte} {n : Nat} {r : Option (BitVec n)}

/-- A register that may hold no value presents the value it holds, zero-extended. -/
theorem hostRead_optional (hw : registerWord s number = r.map (BitVec.setWidth 32)) (instant : Nat) (v : BitVec n)
    (hv : r = some v) : hostRead instant 0#2 number s = ⟨true, v.setWidth 32⟩ :=
  hostRead_register (by rw [hw, hv, Option.map_some]) instant

theorem hostRead_optional_valid (hw : registerWord s number = r.map (BitVec.setWidth 32)) (instant : Nat) :
    (hostRead instant 0#2 number s).valid = r.isSome := by
  rw [hostRead_valid, spaceWord_zero, hw, Option.isSome_map]

end

section
variable {s : State} {i : Byte} (instant : Nat)

theorem hostRead_pbuf (v : Byte) (h : s.pbuf[i.toNat]? = some v) :
    hostRead instant 1#2 i s = ⟨true, v.setWidth 32⟩ :=
  hostRead_of_some ((spaceWord_one s i).trans (bufferWord_of_getElem? h)) instant

theorem hostRead_fbuf (v : Byte) (h : s.fbuf[i.toNat]? = some v) :
    hostRead instant 2#2 i s = ⟨true, v.setWidth 32⟩ :=
  hostRead_of_some ((spaceWord_two s i).trans (bufferWord_of_getElem? h)) instant

end

/-- The reserved register numbers are 8 and those from 12 on (R24). -/
theorem registerWord_reserved (s : State) {i : Byte} (h : i.toNat = 8 ∨ 12 ≤ i.toNat) : registerWord s i = none := by
  unfold registerWord
  split
  case h_12 => rfl
  all_goals omega

end Sys2Proof.Machine

/-! ### The invariants of R33 -/

namespace Sys2Proof.Safety

open Sys2Proof.Machine

theorem inv_iff (s : State) :
    inv s = true ↔ Memory.wf s = true ∧ receiverInv s = true ∧ valueInv s = true := by
  simp [inv, and_assoc]

theorem receiverInv_iff (s : State) :
    receiverInv s = true ↔ (s.rxs = .sync → s.fbuf.head? = some Config.startMarker) ∧
      (s.rxs = .ovf → s.fbuf.head? = some Config.startMarker ∧ s.fbuf.length = Config.fcap) := by
  cases h : s.rxs <;> simp [receiverInv, h]

theorem valueInv_iff (s : State) :
    valueInv s = true ↔ s.val.isSome = s.vw.isSome ∧ ∀ n, s.vw = some n → 1 ≤ n.toNat ∧ n.toNat ≤ 4 := by
  cases hv : s.val <;> cases hw : s.vw <;> simp [valueInv, hv, hw]

theorem inv_reset : inv State.reset = true := by decide

/-! #### The shared operations keep the invariant -/

section
variable {s : State}

theorem inv_setPbuf {l : List Byte} (h : inv s = true) (hl : l.length ≤ Config.pcap) : inv (s.setPbuf l) = true := by
  obtain ⟨hw, hr, hv⟩ := (inv_iff s).1 h
  have hf := ((memory_wf_iff s).1 hw).2
  exact (inv_iff _).2 ⟨(memory_wf_iff _).2 ⟨hl, hf⟩, hr, hv⟩

/-- FBUF may take any bytes that fit it once the receiver is not past a start marker. -/
theorem inv_closeReceiver {l : List Byte} (h : inv s = true) (hl : l.length ≤ Config.fcap) :
    inv ((s.setRxs .empty).setFbuf l) = true := by
  obtain ⟨hw, -, hv⟩ := (inv_iff s).1 h
  have hp := ((memory_wf_iff s).1 hw).1
  exact (inv_iff _).2 ⟨(memory_wf_iff _).2 ⟨hp, hl⟩, rfl, hv⟩

theorem inv_setRxs_empty (h : inv s = true) : inv (s.setRxs .empty) = true :=
  inv_closeReceiver (l := s.fbuf) h ((memory_wf_iff s).1 ((inv_iff s).1 h).1).2

/-- A byte appended leaves the byte at the front. -/
theorem receiverInv_append {b : Byte} (h : receiverInv s = true) (hl : s.fbuf.length ≠ Config.fcap) :
    receiverInv (s.setFbuf (s.fbuf ++ [b])) = true := by
  obtain ⟨hsync, hovf⟩ := (receiverInv_iff s).1 h
  refine (receiverInv_iff _).2 ⟨fun e => ?_, fun e => absurd (hovf e).2 hl⟩
  have hhead : s.fbuf.head? = some Config.startMarker := hsync e
  simp [hhead]

theorem appendFbuf_keeps_inv (b : Byte) (h : inv s = true) : inv (appendFbuf b s) = true := by
  obtain ⟨hw, hr, hv⟩ := (inv_iff s).1 h
  have hw' := appendFbuf_memory_wf b hw
  obtain ⟨-, e⟩ | ⟨hne, e⟩ := appendFbuf_cases b s <;> rw [e] at hw' ⊢
  · exact h
  · exact (inv_iff _).2 ⟨hw', receiverInv_append hr hne, hv⟩

theorem appendPbuf_keeps_inv (b : Byte) (h : inv s = true) : inv (appendPbuf b s) = true := by
  obtain ⟨hw, hr, hv⟩ := (inv_iff s).1 h
  have hw' := appendPbuf_memory_wf b hw
  obtain ⟨-, e⟩ | ⟨-, e⟩ := appendPbuf_cases b s <;> rw [e] at hw' ⊢ <;> exact (inv_iff _).2 ⟨hw', hr, hv⟩

theorem appendValue_keeps_inv (bytes : List Byte) (h : inv s = true) : inv (appendValue bytes s) = true := by
  obtain ⟨hw, hr, hv⟩ := (inv_iff s).1 h
  have hw' := appendValue_memory_wf bytes hw
  obtain ⟨-, e⟩ | ⟨-, e⟩ := appendValue_cases bytes s <;> rw [e] at hw' ⊢ <;> exact (inv_iff _).2 ⟨hw', hr, hv⟩

theorem appendEncoded_keeps_inv (n : Nat) (signed : Bool) (w : Word32) (h : inv s = true) :
    inv (appendEncoded n signed w s) = true := by
  obtain ⟨-, e⟩ | ⟨bytes, -, e⟩ := appendEncoded_cases n signed w s <;> rw [e]
  · exact h
  · exact appendValue_keeps_inv bytes h

theorem deliver_keeps_inv {r : Except ErrorKind Frame} (h : inv s = true)
    (hr : ∀ f, r = .ok f → f.payload.length ≤ Config.pcap) : inv (deliver r s) = true := by
  cases r with
  | ok f => exact inv_setPbuf (s := s) h (hr f rfl)
  | error k => exact inv_setPbuf (s := s) h (Nat.zero_le _)

/-- The frame of a payload of at most 58 bytes fits FBUF (R6). -/
theorem placeFrame_keeps_inv (n c : Byte) (h : inv s = true) : inv (placeFrame n c s) = true := by
  obtain ⟨-, e⟩ | ⟨hle, e⟩ := placeFrame_cases n c s <;> rw [e]
  · exact inv_closeReceiver (l := []) h (Nat.zero_le _)
  · refine inv_closeReceiver (l := frameOf n c s.pbuf) h ?_
    simp only [frameOf_length, Config.maxPayload, Config.fcap] at hle ⊢
    omega

theorem decodeValueAt_keeps_inv (signed : Bool) (off : Byte) (h : inv s = true) :
    inv (decodeValueAt signed off s) = true := by
  obtain ⟨hw, hr, -⟩ := (inv_iff s).1 h
  obtain ⟨-, e⟩ | ⟨hle, ⟨k, -, e⟩ | ⟨v, hok, e⟩⟩ := decodeValueAt_cases signed off s <;> rw [e]
  · exact (inv_iff _).2 ⟨hw, hr, rfl⟩
  · exact (inv_iff _).2 ⟨hw, hr, rfl⟩
  · refine (inv_iff _).2 ⟨hw, hr, (valueInv_iff _).2 ⟨rfl, ?_⟩⟩
    rintro _ ⟨⟩
    have hpos := decodeValue_ok_length_pos hok
    simp only [Config.valMaxBytes] at hle
    rw [BitVec.toNat_ofNat]
    omega

/-- The transitions of R137, and the state the receiver is in after each. -/
theorem receiveByte_keeps_inv (b : Byte) (h : inv s = true) : inv (receiveByte b s) = true := by
  obtain ⟨hw, hr, hv⟩ := (inv_iff s).1 h
  obtain ⟨hp, hf⟩ := (memory_wf_iff s).1 hw
  obtain ⟨hsync, -⟩ := (receiverInv_iff s).1 hr
  obtain ⟨-, -, e⟩ | ⟨-, -, e⟩ | ⟨hs, hfull, e⟩ | ⟨-, hne, e⟩ | ⟨-, e⟩ := receiveByte_cases b s <;> rw [e]
  case inl => exact (inv_iff _).2 ⟨(memory_wf_iff _).2 ⟨hp, (by decide : 1 ≤ 64)⟩, rfl, hv⟩
  case inr.inl => exact (inv_iff _).2 ⟨(memory_wf_iff _).2 ⟨hp, Nat.zero_le _⟩, rfl, hv⟩
  case inr.inr.inl =>
    exact (inv_iff _).2 ⟨hw, (receiverInv_iff _).2 ⟨fun _ => hsync hs, fun _ => ⟨hsync hs, hfull⟩⟩, hv⟩
  case inr.inr.inr.inl =>
    refine (inv_iff _).2 ⟨(memory_wf_iff _).2 ⟨hp, ?_⟩, receiverInv_append hr hne, hv⟩
    simp only [List.length_append, List.length_singleton]
    omega
  case inr.inr.inr.inr => exact h

/-- RECV keeps a part of FBUF, and the payload comes from there (R132). -/
theorem receiveChunk_keeps_inv (x : Byte) (h : inv s = true) :
    inv (deliver (receive s.fbuf x) ((s.setRxs .empty).setFbuf (fromStartMarker s.fbuf))) = true := by
  have hf := ((memory_wf_iff s).1 ((inv_iff s).1 h).1).2
  exact deliver_keeps_inv (inv_closeReceiver h ((fromStartMarker_length _).trans hf))
    fun f e => (receive_payload_length e).trans hf

end

/-! #### Every operation, edge and step -/

/-- Whatever operation runs, it keeps the invariant: one shared operation each. -/
theorem exec_keeps_inv (i : Instr) {s : State} (h : inv s = true) : AnswersOnly (inv · = true) (exec i s) := by
  have hf : s.fbuf.length ≤ Config.pcap := ((memory_wf_iff s).1 ((inv_iff s).1 h).1).2
  cases i with
  | nop => exact answersOnly_next h
  | clrf => exact answersOnly_next (inv_closeReceiver (s := s) h (Nat.zero_le _))
  | pushf b => exact answersOnly_next (appendFbuf_keeps_inv b h)
  | clrp => exact answersOnly_next (inv_setPbuf (s := s) h (Nat.zero_le _))
  | pushp b => exact answersOnly_next (appendPbuf_keeps_inv b h)
  | setxn b => exact answersOnly_next h
  | setnode b => exact answersOnly_next h
  | setcmd b => exact answersOnly_next h
  | crcinit => exact answersOnly_next h
  | crcbyte b => exact answersOnly_next h
  | crcf => exact answersOnly_next h
  | fenc =>
    exact answersOnly_withNode fun n => answersOnly_withCmd fun c => answersOnly_next (placeFrame_keeps_inv n c h)
  | fdec =>
    exact answersOnly_withXnode fun x => answersOnly_next
      (deliver_keeps_inv h fun f e => (decodeFrame_payload_length e).trans hf)
  | fchk => exact answersOnly_withXnode fun x => answersOnly_next h
  | vdecU off => exact answersOnly_next (decodeValueAt_keeps_inv false off h)
  | vdecS off => exact answersOnly_next (decodeValueAt_keeps_inv true off h)
  | vencU1 w => exact answersOnly_next (appendEncoded_keeps_inv 1 false w h)
  | vencU2 w => exact answersOnly_next (appendEncoded_keeps_inv 2 false w h)
  | vencU3 w => exact answersOnly_next (appendEncoded_keeps_inv 3 false w h)
  | vencU4 w => exact answersOnly_next (appendEncoded_keeps_inv 4 false w h)
  | vencS1 w => exact answersOnly_next (appendEncoded_keeps_inv 1 true w h)
  | vencS2 w => exact answersOnly_next (appendEncoded_keeps_inv 2 true w h)
  | vencS3 w => exact answersOnly_next (appendEncoded_keeps_inv 3 true w h)
  | vencS4 w => exact answersOnly_next (appendEncoded_keeps_inv 4 true w h)
  | recv => exact answersOnly_withXnode fun x => answersOnly_next (receiveChunk_keeps_inv x h)
  | rxbyte b => exact answersOnly_next (receiveByte_keeps_inv b h)
  | rxend =>
    exact answersOnly_withXnode fun x => answersOnly_next
      (deliver_keeps_inv (inv_setRxs_empty h) fun f e => (chunkVerdict_payload_length e).trans hf)
  | bldrst => exact answersOnly_next (inv_setPbuf (s := s) h (Nat.zero_le _))
  | bldrd index sub => exact answersOnly_next (inv_setPbuf (s := s) h (by decide : 3 ≤ 64))

theorem acceptWord_keeps_inv (w : OpWord) {s : State} (h : inv s = true) :
    AnswersOnly (inv · = true) (acceptWord w s) := by
  obtain ⟨i, -, e⟩ | ⟨_, -, e⟩ := acceptWord_cases w s <;> rw [e]
  · exact exec_keeps_inv i h
  · exact answersOnly_next h

theorem clockEdge_keeps_inv (e : Edge) {s : State} (h : inv s = true) :
    AnswersOnly (inv · = true) (clockEdge e s) := by
  obtain ⟨-, he⟩ | ⟨-, -, -, he⟩ | ⟨-, -, he⟩ := clockEdge_cases e s <;> rw [he]
  · exact answersOnly_next inv_reset
  · exact acceptWord_keeps_inv e.opWord h
  · exact answersOnly_next h

theorem step_keeps_inv {s t : State} (h : inv s = true) (ht : step s = .next t) : inv t = true := by
  cases e : s.inputs with
  | nil => exact answersOnly_next (P := (inv · = true)) h t ((step_idle e).symm.trans ht)
  | cons edge rest =>
    exact clockEdge_keeps_inv edge (s := s.setInputs rest) h t ((step_edge e).symm.trans ht)

end Sys2Proof.Safety

/-! ### The statements of 10_state.md -/

namespace Sys2Proof.EngineState

open Sys2Proof.Machine Sys2Proof.Safety

/-- Settles O50: each shared operation keeps the invariant, so each operation, edge and step does. -/
theorem everyStepKeepsTheInvariant : Obligations.EveryStepKeepsTheInvariant :=
  fun _ _ => step_keeps_inv

/-- Settles O51, by induction on the number of steps with the invariant, which is then written out. -/
theorem reachableStatesSatisfyTheInvariants : Obligations.ReachableStatesSatisfyTheInvariants := by
  intro edges n t hrun
  have ht : inv t = true := run_keeps (fun _ _ => step_keeps_inv) n (s := State.reset.setInputs edges) inv_reset hrun
  obtain ⟨hw, hr, hv⟩ := (inv_iff t).1 ht
  obtain ⟨hp, hf⟩ := (memory_wf_iff t).1 hw
  obtain ⟨hsync, hovf⟩ := (receiverInv_iff t).1 hr
  obtain ⟨hheld, hwidth⟩ := (valueInv_iff t).1 hv
  rw [List.head?_eq_getElem?] at hsync hovf
  refine ⟨hp, hf, statusCode_ne_fourteen _, hwidth, hheld, fun e => ⟨?_, hsync e⟩, fun e => (hovf e).symm⟩
  exact (List.getElem?_eq_some_iff.1 (hsync e)).1

/-- Settles O55, by the two exclusive answers an operation has. -/
theorem refusedExactlyWithoutOperands : Obligations.RefusedExactlyWithoutOperands := by
  intro i s
  obtain ⟨hheld, r, e⟩ | ⟨hheld, t, e⟩ := exec_cases i s
  · simp [hheld, e]
  · simp [hheld, e]

/-- Settles O43. -/
theorem stepRunsTheDecodedOperation : Obligations.StepRunsTheDecodedOperation := by
  intro s w rest i hin hdec
  exact (step_accepted hin).trans (acceptWord_of_ok hdec _)

/-- Settles O44. -/
theorem stepOnAnIllegalWordWritesStatusOnly : Obligations.StepOnAnIllegalWordWritesStatusOnly := by
  intro s w rest e hin hdec
  exact (step_accepted hin).trans (acceptWord_of_error hdec _)

/-- Settles O45. -/
theorem resetEdgeSetsEveryItem : Obligations.ResetEdgeSetsEveryItem := by
  intro s e rest hin hrst
  exact (step_edge hin).trans (clockEdge_of_rst hrst _)

/-- Settles O47: an edge with no accepted word, and no edge at all. -/
theorem nothingHappensWithoutAnAcceptedWord : Obligations.NothingHappensWithoutAnAcceptedWord := by
  refine ⟨fun s e rest hin hrst hquiet => ?_, fun s => step_idle⟩
  exact (step_edge hin).trans (clockEdge_of_not_accepts hrst hquiet _)

/-- Settles O49. -/
theorem invariantAtReset : Obligations.InvariantAtReset := inv_reset

/-- Settles O54: the two tables of codes, evaluated. -/
theorem statusCodesAreThoseListed : Obligations.StatusCodesAreThoseListed := by
  unfold Obligations.StatusCodesAreThoseListed
  decide

/-- Settles O58: the word at each place, and where there is one. VAL has the width of the port, so its word is not
extended. -/
theorem readPortPresentsTheState : Obligations.ReadPortPresentsTheState := by
  intro n s
  have status := hostRead_register (s := s) (number := 0x0#8) rfl n
  have acc := hostRead_register (s := s) (number := 0x1#8) rfl n
  have plen := hostRead_register (s := s) (number := 0x6#8) rfl n
  have flen := hostRead_register (s := s) (number := 0x7#8) rfl n
  have rxs := hostRead_register (s := s) (number := 0x9#8) rfl n
  have xnode : registerWord s 0x2#8 = s.xnode.map (BitVec.setWidth 32) := rfl
  have node : registerWord s 0x3#8 = s.node.map (BitVec.setWidth 32) := rfl
  have cmd : registerWord s 0x4#8 = s.cmd.map (BitVec.setWidth 32) := rfl
  have csum : registerWord s 0x5#8 = s.csum.map (BitVec.setWidth 32) := rfl
  have val : registerWord s 0xA#8 = s.val := rfl
  have vw : registerWord s 0xB#8 = s.vw.map (BitVec.setWidth 32) := rfl
  exact ⟨status, acc, hostRead_optional xnode n, hostRead_optional node n, hostRead_optional cmd n,
    hostRead_optional csum n, plen, flen, rxs, fun _ h => hostRead_register (val.trans h) n, hostRead_optional vw n,
    fun _ => hostRead_pbuf n, fun _ => hostRead_fbuf n,
    fun _ h => hostRead_valid_of_none ((spaceWord_zero s _).trans (registerWord_reserved s h)) n,
    ⟨hostRead_optional_valid xnode n, hostRead_optional_valid node n, hostRead_optional_valid cmd n,
      hostRead_optional_valid csum n, hostRead_valid n 0#2 0xA#8 s, hostRead_optional_valid vw n⟩,
    fun _ h => hostRead_valid_of_none ((spaceWord_one s _).trans (bufferWord_of_length_le h)) n,
    fun _ h => hostRead_valid_of_none ((spaceWord_two s _).trans (bufferWord_of_length_le h)) n,
    fun i => hostRead_valid_of_none (spaceWord_three s i) n⟩

end Sys2Proof.EngineState
end

