-- ==== Sys2Proof/Proofs/MemoryAndOrder.lean ====
section
/-! Memory and ordering (20_memory.md): operations take effect in the order of issue, whatever the ports carry later
(R50); the bytes of a read request on the wire (R43, R147, R101). -/

/-! ### No operation sees the edges still to come -/

namespace Sys2Proof.Machine

/-- What `r` answers, with `edges` still to come: a refusal answers no state and stays as it is. -/
def answerWithInputs (edges : List Edge) : Result → Result
  | .next t => .next (t.setInputs edges)
  | .fault r => .fault r
  | .refused r => .refused r

theorem next_eq_answerWithInputs {edges : List Edge} {t t' : State} (h : t' = t.setInputs edges) :
    .next t' = answerWithInputs edges (.next t) :=
  congrArg Host.Outcome.next h

section
variable (edges : List Edge) (s : State)

/-! #### Operands and ends of operations -/

theorem withXnode_setInputs {k k' : Byte → Result} (h : ∀ x, k' x = answerWithInputs edges (k x)) :
    withXnode (s.setInputs edges) k' = answerWithInputs edges (withXnode s k) := by
  obtain ⟨hx, e⟩ | ⟨x, hx, e⟩ := withXnode_cases s k <;> rw [e]
  · exact withXnode_none (s := s.setInputs edges) hx k'
  · exact (withXnode_some (s := s.setInputs edges) hx k').trans (h x)

theorem withNode_setInputs {k k' : Byte → Result} (h : ∀ n, k' n = answerWithInputs edges (k n)) :
    withNode (s.setInputs edges) k' = answerWithInputs edges (withNode s k) := by
  obtain ⟨hn, e⟩ | ⟨n, hn, e⟩ := withNode_cases s k <;> rw [e]
  · exact withNode_none (s := s.setInputs edges) hn k'
  · exact (withNode_some (s := s.setInputs edges) hn k').trans (h n)

theorem withCmd_setInputs {k k' : Byte → Result} (h : ∀ c, k' c = answerWithInputs edges (k c)) :
    withCmd (s.setInputs edges) k' = answerWithInputs edges (withCmd s k) := by
  obtain ⟨hc, e⟩ | ⟨c, hc, e⟩ := withCmd_cases s k <;> rw [e]
  · exact withCmd_none (s := s.setInputs edges) hc k'
  · exact (withCmd_some (s := s.setInputs edges) hc k').trans (h c)

theorem deliver_setInputs (r : Except ErrorKind Frame) :
    deliver r (s.setInputs edges) = (deliver r s).setInputs edges := by
  cases r <;> rfl

/-! #### Shared operations -/

theorem appendFbuf_setInputs (b : Byte) : appendFbuf b (s.setInputs edges) = (appendFbuf b s).setInputs edges := by
  unfold appendFbuf
  rw [apply_ite (State.setInputs edges)]
  rfl

theorem appendPbuf_setInputs (b : Byte) : appendPbuf b (s.setInputs edges) = (appendPbuf b s).setInputs edges := by
  unfold appendPbuf
  rw [apply_ite (State.setInputs edges)]
  rfl

theorem appendValue_setInputs (bytes : List Byte) :
    appendValue bytes (s.setInputs edges) = (appendValue bytes s).setInputs edges := by
  unfold appendValue
  rw [apply_ite (State.setInputs edges)]
  rfl

theorem appendEncoded_setInputs (n : Nat) (signed : Bool) (w : Word32) :
    appendEncoded n signed w (s.setInputs edges) = (appendEncoded n signed w s).setInputs edges := by
  unfold appendEncoded
  cases encodeValue (wordValue signed w) n signed with
  | none => rfl
  | some bytes => exact appendValue_setInputs edges s bytes

theorem placeFrame_setInputs (n c : Byte) :
    placeFrame n c (s.setInputs edges) = (placeFrame n c s).setInputs edges := by
  unfold placeFrame
  rw [State.setInputs_pbuf]
  cases encodeFrame n c s.pbuf <;> rfl

theorem decodeValueAt_setInputs (signed : Bool) (off : Byte) :
    decodeValueAt signed off (s.setInputs edges) = (decodeValueAt signed off s).setInputs edges := by
  have hbytes : valueBytes (s.setInputs edges) off = valueBytes s off := rfl
  unfold decodeValueAt
  rw [hbytes, apply_ite (State.setInputs edges)]
  cases decodeValue (valueBytes s off) signed <;> rfl

theorem huntByte_setInputs (b : Byte) : huntByte b (s.setInputs edges) = (huntByte b s).setInputs edges := by
  unfold huntByte
  rw [apply_ite (State.setInputs edges)]
  rfl

theorem syncByte_setInputs (b : Byte) : syncByte b (s.setInputs edges) = (syncByte b s).setInputs edges := by
  unfold syncByte
  rw [apply_ite (State.setInputs edges)]
  rfl

theorem receiveByte_setInputs (b : Byte) :
    receiveByte b (s.setInputs edges) = (receiveByte b s).setInputs edges := by
  unfold receiveByte
  rw [State.setInputs_rxs]
  cases s.rxs with
  | empty => exact huntByte_setInputs edges s b
  | hunt => exact huntByte_setInputs edges s b
  | sync => exact syncByte_setInputs edges s b
  | ovf => rfl

/-! #### Every operation and every word -/

/-- The edges still to come are carried along by every operation and read by none. -/
theorem exec_setInputs (i : Instr) : exec i (s.setInputs edges) = answerWithInputs edges (exec i s) := by
  cases i with
  | pushf b => exact next_eq_answerWithInputs (appendFbuf_setInputs edges s b)
  | pushp b => exact next_eq_answerWithInputs (appendPbuf_setInputs edges s b)
  | fenc =>
    exact withNode_setInputs edges s fun n => withCmd_setInputs edges s fun c =>
      next_eq_answerWithInputs (placeFrame_setInputs edges s n c)
  | fdec =>
    exact withXnode_setInputs edges s fun x => next_eq_answerWithInputs (deliver_setInputs edges s _)
  | fchk => exact withXnode_setInputs edges s fun x => rfl
  | vdecU off => exact next_eq_answerWithInputs (decodeValueAt_setInputs edges s false off)
  | vdecS off => exact next_eq_answerWithInputs (decodeValueAt_setInputs edges s true off)
  | vencU1 w => exact next_eq_answerWithInputs (appendEncoded_setInputs edges s 1 false w)
  | vencU2 w => exact next_eq_answerWithInputs (appendEncoded_setInputs edges s 2 false w)
  | vencU3 w => exact next_eq_answerWithInputs (appendEncoded_setInputs edges s 3 false w)
  | vencU4 w => exact next_eq_answerWithInputs (appendEncoded_setInputs edges s 4 false w)
  | vencS1 w => exact next_eq_answerWithInputs (appendEncoded_setInputs edges s 1 true w)
  | vencS2 w => exact next_eq_answerWithInputs (appendEncoded_setInputs edges s 2 true w)
  | vencS3 w => exact next_eq_answerWithInputs (appendEncoded_setInputs edges s 3 true w)
  | vencS4 w => exact next_eq_answerWithInputs (appendEncoded_setInputs edges s 4 true w)
  | recv =>
    exact withXnode_setInputs edges s fun x => next_eq_answerWithInputs
      (deliver_setInputs edges ((s.setRxs .empty).setFbuf (fromStartMarker s.fbuf)) _)
  | rxbyte b => exact next_eq_answerWithInputs (receiveByte_setInputs edges s b)
  | rxend =>
    exact withXnode_setInputs edges s fun x => next_eq_answerWithInputs
      (deliver_setInputs edges (s.setRxs .empty) _)
  | _ => rfl

theorem acceptWord_setInputs (w : OpWord) :
    acceptWord w (s.setInputs edges) = answerWithInputs edges (acceptWord w s) := by
  unfold acceptWord
  cases decode w with
  | ok i => exact exec_setInputs edges s i
  | error e => rfl

end

/-! ### Words issued one after the other (R50) -/

section
variable {w : OpWord} {s : State}

theorem issueAll_cons_of_next {t : State} (ws : List OpWord) (h : acceptWord w s = .next t) :
    issueAll (w :: ws) s = issueAll ws t := by
  rw [issueAll_cons, h]

theorem issueAll_cons_of_refused {r : Refusal} (ws : List OpWord) (h : acceptWord w s = .refused r) :
    issueAll (w :: ws) s = .refused r := by
  rw [issueAll_cons, h]

end

/-- A run over edges that each carry an accepted word issues the words: each leaves the later edges alone. -/
theorem run_issueEdges (words : List OpWord) (rest : List Edge) (s : State) :
    Host.Core.run Sys2Proof.core words.length (s.setInputs (words.map issueEdge ++ rest)) =
      issueAll words (s.setInputs rest) := by
  induction words generalizing s with
  | nil => exact run_zero _
  | cons w ws ih =>
    have hstep : step (s.setInputs ((w :: ws).map issueEdge ++ rest)) =
        answerWithInputs (ws.map issueEdge ++ rest) (acceptWord w s) :=
      (step_accepted rfl).trans (acceptWord_setInputs _ s w)
    have hissue := acceptWord_setInputs rest s w
    cases h : acceptWord w s with
    | next t =>
      rw [h] at hstep hissue
      exact (run_succ_of_next _ hstep).trans ((ih t).trans (issueAll_cons_of_next ws hissue).symm)
    | fault r => cases r
    | refused r =>
      rw [h] at hstep hissue
      exact (run_succ_of_refused _ hstep).trans (issueAll_cons_of_refused ws hissue).symm

/-! ### The word of an operation runs the operation -/

/-- A word whose must-be-zero bits are zero decodes to the operation built from its argument (R71). -/
theorem decode_opcodeOf_append (m : Mnemonic) {arg : Word32} (h : arg &&& mustBeZeroMask m.form = 0#32) :
    decode (opcodeOf m ++ arg) = .ok (buildInstr m arg) := by
  simp [decode, lookupOpcode_opcodeOf, h]

theorem decode_encode_bldrd (index : BitVec 16) (sub : Byte) :
    decode (encode (.bldrd index sub)) = .ok (.bldrd index sub) := by
  have h : decode (encode (.bldrd index sub)) = .ok (buildInstr .bldrd (packIndex index sub)) :=
    decode_opcodeOf_append .bldrd (packIndex_mustBeZero index sub)
  rw [h, buildInstr, argIndex_packIndex, argSub_packIndex]

theorem decode_encode_fenc : decode (encode .fenc) = .ok .fenc :=
  decode_opcodeOf_append .fenc rfl

/-! ### A read request -/

/-- BLDRD writes the index low byte first (R43, R147). -/
theorem execBldrd_append (high low sub : Byte) (s : State) :
    execBldrd (high ++ low) sub s =
      .next { s with pbuf := [low, high, sub], cmd := some 0x01#8, status := .ok } := by
  have hhigh : (high ++ low : BitVec 16).extractLsb' 8 8 = high := BitVec.extractLsb'_append_eq_left
  have hlow : (high ++ low : BitVec 16).extractLsb' 0 8 = low := BitVec.extractLsb'_append_eq_right
  rw [execBldrd, hhigh, hlow]
  rfl

/-- FENC with both operands held and a payload that fits (R103). -/
theorem execFenc_of_le {s : State} {n c : Byte} (hn : s.node = some n) (hc : s.cmd = some c)
    (hl : s.pbuf.length ≤ Config.maxPayload) :
    execFenc s = .next { s with rxs := .empty, fbuf := frameOf n c s.pbuf,
                                csum := some (crc8 (frameBody n c s.pbuf)), status := .ok } := by
  obtain ⟨hgt, -⟩ | ⟨-, e⟩ := placeFrame_cases n c s
  · omega
  · rw [execFenc, withNode_some hn, withCmd_some hc, e]

/-- The frame of a read request, byte by byte. -/
theorem frameOf_readRequest (n high low sub : Byte) :
    frameOf n 0x01#8 [low, high, sub] =
      [0x53#8, 0x07#8, n, 0x01#8, low, high, sub, crc8 [0x07#8, n, 0x01#8, low, high, sub], 0x45#8] := rfl

/-- The checksum of the read request for node 1, index 0x6064, subindex 0. -/
theorem crc8_readRequest_6064 : crc8 [0x07#8, 0x01#8, 0x01#8, 0x64#8, 0x60#8, 0x00#8] = 0x56#8 := by
  decide +kernel

end Sys2Proof.Machine

/-! ### The statements of 20_memory.md -/

namespace Sys2Proof.MemoryAndOrder

open Sys2Proof.Machine

/-- Settles O48, by induction on the words. -/
theorem machineIsTheFoldOfTheIssuedWords : Obligations.MachineIsTheFoldOfTheIssuedWords :=
  run_issueEdges

/-- Settles O36: the words of BLDRD and FENC run the two operations, and the payload BLDRD wrote is what FENC frames. -/
theorem readRequestFrameOnTheWire : Obligations.ReadRequestFrameOnTheWire := by
  intro s n high low sub hn
  have hbldrd := (acceptWord_of_ok (decode_encode_bldrd (high ++ low) sub) s).trans (execBldrd_append high low sub s)
  have hfenc := (acceptWord_of_ok decode_encode_fenc _).trans
    (execFenc_of_le (s := { s with pbuf := [low, high, sub], cmd := some 0x01#8, status := .ok }) hn rfl
      (by decide : 3 ≤ 58))
  refine ⟨_, (issueAll_cons_of_next _ hbldrd).trans (issueAll_cons_of_next _ hfenc), rfl,
    frameOf_readRequest n high low sub, ?_⟩
  rintro rfl rfl rfl rfl
  exact (frameOf_readRequest _ _ _ _).trans (by rw [crc8_readRequest_6064])

end Sys2Proof.MemoryAndOrder
end

