-- ==== Sys2Proof/Proofs/BufferAccess.lean ====
section
/-! Buffer and register access (40_buffer_access.md): the words of forms Z and B (R67), the two outcomes of appending
one byte to a buffer (R56), and the eight operations NOP to SETCMD. -/

namespace Sys2Proof.Machine

/-! ### Words of form Z and form B -/

/-- A word with a must-be-zero bit set is no operation (R70). -/
theorem decode_opcodeOf_append_of_ne (m : Mnemonic) {arg : Word32} (h : arg &&& mustBeZeroMask m.form ≠ 0#32) :
    decode (opcodeOf m ++ arg) = .error (.mustBeZero m arg) := by
  simp [decode, lookupOpcode_opcodeOf, h]

/-- An operation of form Z takes no argument but zero (R70). -/
theorem decode_formZ_of_ne {m : Mnemonic} (hm : m.form = .z) {arg : Word32} (h : arg ≠ 0#32) :
    decode (opcodeOf m ++ arg) = .error (.mustBeZero m arg) :=
  decode_opcodeOf_append_of_ne m (by rwa [hm, mustBeZero_z])

/-- The word of form B with its three zero bytes written out (R67). -/
theorem append_packByte (op b : Byte) : (op ++ packByte b : OpWord) = (op ++ 0#24 : Word32) ++ b := by
  have hpack : packByte b = (0#24 ++ b : Word32) := BitVec.setWidth_eq_append (by decide)
  rw [hpack, BitVec.append_assoc']
  rfl

/-- The word of form B of a mnemonic whose operation `mk` takes the low byte of the argument. -/
theorem decode_formB {m : Mnemonic} {mk : Byte → Instr} (hm : m.form = .b)
    (hmk : ∀ arg, buildInstr m arg = mk (argByte arg)) (b : Byte) :
    decode ((opcodeOf m ++ 0#24 : Word32) ++ b) = .ok (mk b) := by
  have hzero : packByte b &&& mustBeZeroMask m.form = 0#32 := hm ▸ packByte_mustBeZero b
  rw [← append_packByte, decode_opcodeOf_append m hzero, hmk, argByte_packByte]

/-! ### Appending one byte -/

theorem appendFbuf_of_full (b : Byte) {s : State} (h : s.fbuf.length = Config.fcap) :
    appendFbuf b s = { s with status := .error .bufferOverflow } := by
  obtain ⟨-, e⟩ | ⟨hne, -⟩ := appendFbuf_cases b s
  · exact e
  · exact absurd h hne

theorem appendFbuf_of_room (b : Byte) {s : State} (h : s.fbuf.length ≠ Config.fcap) :
    appendFbuf b s = { s with fbuf := s.fbuf ++ [b], status := .ok } := by
  obtain ⟨hfull, -⟩ | ⟨-, e⟩ := appendFbuf_cases b s
  · exact absurd hfull h
  · exact e

theorem appendPbuf_of_full (b : Byte) {s : State} (h : s.pbuf.length = Config.pcap) :
    appendPbuf b s = { s with status := .error .bufferOverflow } := by
  obtain ⟨-, e⟩ | ⟨hne, -⟩ := appendPbuf_cases b s
  · exact e
  · exact absurd h hne

theorem appendPbuf_of_room (b : Byte) {s : State} (h : s.pbuf.length ≠ Config.pcap) :
    appendPbuf b s = { s with pbuf := s.pbuf ++ [b], status := .ok } := by
  obtain ⟨hfull, -⟩ | ⟨-, e⟩ := appendPbuf_cases b s
  · exact absurd hfull h
  · exact e

/-! ### What each operation answers -/

theorem exec_nop (s : State) : exec .nop s = .next s := rfl

theorem exec_clrf (s : State) : exec .clrf s = .next { s with fbuf := [], rxs := .empty, status := .ok } := rfl

theorem exec_pushf (b : Byte) (s : State) : exec (.pushf b) s = .next (appendFbuf b s) := rfl

theorem exec_clrp (s : State) : exec .clrp s = .next { s with pbuf := [], status := .ok } := rfl

theorem exec_pushp (b : Byte) (s : State) : exec (.pushp b) s = .next (appendPbuf b s) := rfl

theorem exec_setxn (b : Byte) (s : State) : exec (.setxn b) s = .next { s with xnode := some b, status := .ok } := rfl

theorem exec_setnode (b : Byte) (s : State) : exec (.setnode b) s = .next { s with node := some b, status := .ok } :=
  rfl

theorem exec_setcmd (b : Byte) (s : State) : exec (.setcmd b) s = .next { s with cmd := some b, status := .ok } := rfl

end Sys2Proof.Machine

/-! ### The statements of 40_buffer_access.md -/

namespace Sys2Proof.BufferAccess

open Sys2Proof.Machine

/-- Settles O1: NOP answers the state it is given, and its form leaves no argument but zero. -/
theorem nopChangesNothing : Obligations.NopChangesNothing := by
  have hword : decode 0x0000000000#40 = .ok .nop := decode_opcodeOf_append .nop (arg := 0#32) rfl
  refine ⟨hword, fun s => ⟨exec_nop s, fun arg harg => ?_⟩⟩
  have hillegal : decode (0x00#8 ++ arg) = .error (.mustBeZero .nop arg) := decode_formZ_of_ne (m := .nop) rfl harg
  exact acceptWord_of_error hillegal s

/-- Settles O2. -/
theorem clrfEmptiesFbufAndOpensAChunk : Obligations.ClrfEmptiesFbufAndOpensAChunk :=
  ⟨decode_opcodeOf_append .clrf (arg := 0#32) rfl, exec_clrf⟩

/-- Settles O3, by the two outcomes of an append to FBUF. -/
theorem pushfAppendsOrReportsOverflow : Obligations.PushfAppendsOrReportsOverflow := by
  refine fun b s => ⟨decode_formB (m := .pushf) rfl (fun _ => rfl) b, fun hroom => ?_, fun hfull => ?_⟩
  · rw [exec_pushf, appendFbuf_of_room b hroom]
  · rw [exec_pushf, appendFbuf_of_full b hfull]

/-- Settles O4. -/
theorem clrpEmptiesPbufOnly : Obligations.ClrpEmptiesPbufOnly :=
  ⟨decode_opcodeOf_append .clrp (arg := 0#32) rfl, exec_clrp⟩

/-- Settles O5, by the two outcomes of an append to PBUF. -/
theorem pushpAppendsOrReportsOverflow : Obligations.PushpAppendsOrReportsOverflow := by
  refine fun b s => ⟨decode_formB (m := .pushp) rfl (fun _ => rfl) b, fun hroom => ?_, fun hfull => ?_⟩
  · rw [exec_pushp, appendPbuf_of_room b hroom]
  · rw [exec_pushp, appendPbuf_of_full b hfull]

/-- Settles O6: three words of form B, three registers. -/
theorem setOperationsStoreTheirByte : Obligations.SetOperationsStoreTheirByte :=
  fun b s =>
    ⟨decode_formB (m := .setxn) rfl (fun _ => rfl) b, decode_formB (m := .setnode) rfl (fun _ => rfl) b,
      decode_formB (m := .setcmd) rfl (fun _ => rfl) b, exec_setxn b s, exec_setnode b s, exec_setcmd b s⟩

end Sys2Proof.BufferAccess
end

