-- ==== Sys2Proof/Proofs/CommandBuilder.lean ====
section
/-! The command builder (45_command_builder.md): the word of form X and its must-be-zero bits (R67, R70), and the two
operations BLDRST and BLDRD. -/

namespace Sys2Proof.Machine

/-! ### Words of form X -/

/-- An opcode and the four bytes of its argument, however they are grouped. -/
theorem append_bytes (op b₃ b₂ b₁ b₀ : Byte) :
    (op ++ (b₃ ++ b₂ ++ (b₁ ++ b₀) : Word32) : OpWord) = (op ++ b₃ : BitVec 16) ++ b₂ ++ b₁ ++ b₀ := by
  apply BitVec.eq_of_toNat_eq
  simp only [BitVec.toNat_append, Nat.shiftLeft_or_distrib, ← Nat.shiftLeft_add, Nat.or_assoc]

/-- The word of BLDRD as the listing `61_00ssiiii` writes it (R147). -/
theorem encode_bldrd_append (high low sub : Byte) :
    encode (.bldrd (high ++ low) sub) = 0x6100#16 ++ sub ++ high ++ low :=
  append_bytes 0x61#8 0x00#8 sub high low

/-- Bits 31..24 are must-be-zero bits of form X (R67). -/
theorem mustBeZeroMask_x_getLsbD : ∀ i < 32, 24 ≤ i → (mustBeZeroMask .x).getLsbD i = true := by
  decide

/-- An argument of 2^24 or more has one of the bits 31..24 set (R70). -/
theorem mustBeZero_x_ne {arg : Word32} (h : 2 ^ 24 ≤ arg.toNat) : arg &&& mustBeZeroMask .x ≠ 0#32 := by
  intro hzero
  obtain ⟨i, hi, hbit : arg.getLsbD i = true⟩ := Nat.exists_ge_and_testBit_of_ge_two_pow h
  have hmask := mustBeZeroMask_x_getLsbD i (BitVec.lt_of_getLsbD hbit) hi
  have hand : (arg &&& mustBeZeroMask .x).getLsbD i = true := by
    rw [BitVec.getLsbD_and, hbit, hmask]
    rfl
  simp [hzero] at hand

/-! ### What each operation answers -/

/-- Whatever PBUF and CMD held is gone (R148). -/
theorem exec_bldrst (s : State) :
    exec .bldrst s = .next { s with pbuf := [], cmd := some 0x00#8, status := .ok } := rfl

theorem exec_bldrd (index : BitVec 16) (sub : Byte) (s : State) :
    exec (.bldrd index sub) s = execBldrd index sub s := rfl

end Sys2Proof.Machine

/-! ### The statements of 45_command_builder.md -/

namespace Sys2Proof.CommandBuilder

open Sys2Proof.Machine

/-- Settles O35: both words decode by their form, a word of BLDRD with a must-be-zero bit set is no operation, and the
two operations place what the constructors build. -/
theorem buildersReplacePayloadAndCommand : Obligations.BuildersReplacePayloadAndCommand := by
  refine ⟨decode_opcodeOf_append .bldrst (arg := 0#32) rfl, rfl, fun _ _ _ => rfl, fun high low sub s => ?_⟩
  have hword : decode (0x6100#16 ++ sub ++ high ++ low) = .ok (.bldrd (high ++ low) sub) :=
    encode_bldrd_append high low sub ▸ decode_encode_bldrd (high ++ low) sub
  have hillegal (arg : Word32) (harg : 2 ^ 24 ≤ arg.toNat) :
      decode (0x61#8 ++ arg) = .error (.mustBeZero .bldrd arg) :=
    decode_opcodeOf_append_of_ne .bldrd (mustBeZero_x_ne harg)
  exact ⟨hword, fun arg harg => acceptWord_of_error (hillegal arg harg) s, exec_bldrst s,
    (exec_bldrd _ sub s).trans (execBldrd_append high low sub s)⟩

end Sys2Proof.CommandBuilder
end

