-- ==== Sys2Proof/Proofs/Exceptions.lean ====
section
/-! The error kinds (60_exceptions.md): which kinds an operation can end in (R150), and what its failure invalidates and
leaves alone (R157). Both are read off one fact, `exec_endsIn`. -/

namespace Sys2Proof.Exceptions

open Sys2Proof.Machine Sys2Proof.Safety

/-! ### The kinds each check raises -/

/-- The five checks of a frame and no sixth (R105, R108); FDEC and FCHK report the same kinds. -/
theorem decodeFrame_error_mem {raw : List Byte} {x : Byte} {k : ErrorKind} (h : decodeFrame raw x = .error k) :
    k ∈ kindsOf .fdec := by
  unfold decodeFrame at h
  split_ifs at h <;> cases h <;> decide

/-- No byte, no start marker, or a check of the slice from it (R131). -/
theorem receive_error_mem {buf : List Byte} {x : Byte} {k : ErrorKind} (h : receive buf x = .error k) :
    k ∈ kindsOf .recv := by
  unfold receive at h
  split_ifs at h
  · cases h
    decide
  · cases h
    decide
  · exact .tail _ (.tail _ (decodeFrame_error_mem h))

/-- The kinds of `receive`, and the overflow of the chunk (R138). -/
theorem chunkVerdict_error_mem {s : State} {x : Byte} {k : ErrorKind} (h : chunkVerdict s x = .error k) :
    k ∈ kindsOf .rxend := by
  unfold chunkVerdict at h
  cases hs : s.rxs with
  | sync =>
    rw [hs] at h
    exact .tail _ (.tail _ (List.mem_append_left [ErrorKind.bufferOverflow] (decodeFrame_error_mem h)))
  | empty | hunt | ovf =>
    rw [hs] at h
    cases h
    decide

/-- Decoding a value fails for no bytes and for nothing else (R122). -/
theorem decodeValue_error {bytes : List Byte} {signed : Bool} {k : ErrorKind}
    (h : decodeValue bytes signed = .error k) : k = .emptyValue := by
  unfold decodeValue at h
  split at h
  · cases h
    rfl
  · split_ifs at h

/-! ### How the shared operations end -/

/-- `t` is the state of an operation that completed, or that raised one of `kinds` after it left the state `failed`. -/
def EndsIn (kinds : List ErrorKind) (failed t : State) : Prop := t.status = .ok ∨ ∃ k ∈ kinds, t = raise k failed

section
variable {kinds : List ErrorKind} {failed t : State}

theorem EndsIn.completed (h : t.status = .ok) : EndsIn kinds failed t := .inl h

theorem EndsIn.raised {k : ErrorKind} (hk : k ∈ kinds) (h : t = raise k failed) : EndsIn kinds failed t :=
  .inr ⟨k, hk, h⟩

theorem EndsIn.status (h : EndsIn kinds failed t) : t.status = .ok ∨ ∃ k ∈ kinds, t.status = .error k := by
  obtain hok | ⟨k, hk, rfl⟩ := h
  · exact .inl hok
  · exact .inr ⟨k, hk, rfl⟩

/-- An error STATUS names the kind that was raised. -/
theorem EndsIn.of_error {k : ErrorKind} (h : EndsIn kinds failed t) (hs : t.status = .error k) :
    k ∈ kinds ∧ t = raise k failed := by
  obtain hok | ⟨j, hj, rfl⟩ := h
  · rw [hok] at hs
    cases hs
  · cases hs
    exact ⟨hj, rfl⟩

end

section
variable (s : State)

theorem appendFbuf_endsIn (b : Byte) : EndsIn [.bufferOverflow] s (appendFbuf b s) := by
  obtain ⟨-, e⟩ | ⟨-, e⟩ := appendFbuf_cases b s <;> rw [e]
  · exact .raised (.head _) rfl
  · exact .completed rfl

theorem appendPbuf_endsIn (b : Byte) : EndsIn [.bufferOverflow] s (appendPbuf b s) := by
  obtain ⟨-, e⟩ | ⟨-, e⟩ := appendPbuf_cases b s <;> rw [e]
  · exact .raised (.head _) rfl
  · exact .completed rfl

/-- The range is tested first, then the room (R125). -/
theorem appendEncoded_endsIn (n : Nat) (signed : Bool) (w : Word32) :
    EndsIn [.valueRange, .bufferOverflow] s (appendEncoded n signed w s) := by
  obtain ⟨-, e⟩ | ⟨bytes, -, e⟩ := appendEncoded_cases n signed w s <;> rw [e]
  · exact .raised (.head _) rfl
  · obtain ⟨-, e⟩ | ⟨-, e⟩ := appendValue_cases bytes s <;> rw [e]
    · exact .raised (.tail _ (.head _)) rfl
    · exact .completed rfl

theorem placeFrame_endsIn (n c : Byte) :
    EndsIn [.payloadTooLarge] { s with fbuf := [], csum := none, rxs := .empty } (placeFrame n c s) := by
  obtain ⟨-, e⟩ | ⟨-, e⟩ := placeFrame_cases n c s <;> rw [e]
  · exact .raised (.head _) rfl
  · exact .completed rfl

theorem decodeValueAt_endsIn (signed : Bool) (off : Byte) :
    EndsIn [.emptyValue, .valueTooWide] (invalidateValue s) (decodeValueAt signed off s) := by
  obtain ⟨-, e⟩ | ⟨-, ⟨k, hk, e⟩ | ⟨v, -, e⟩⟩ := decodeValueAt_cases signed off s <;> rw [e]
  · exact .raised (.tail _ (.head _)) rfl
  · obtain rfl := decodeValue_error hk
    exact .raised (.head _) rfl
  · exact .completed rfl

/-- A byte that finds no room leaves the receiver in `RX_OVF`, where a receiver already there stays (R137). -/
theorem receiveByte_endsIn (b : Byte) : EndsIn [.bufferOverflow] (s.setRxs .ovf) (receiveByte b s) := by
  obtain ⟨-, -, e⟩ | ⟨-, -, e⟩ | ⟨-, -, e⟩ | ⟨-, -, e⟩ | ⟨hovf, e⟩ := receiveByte_cases b s <;> rw [e]
  case inr.inr.inl => exact .raised (.head _) rfl
  case inr.inr.inr.inr =>
    have hstays : s.setRxs .ovf = s := by rw [← hovf]; rfl
    exact .raised (.head _) (by rw [hstays]; rfl)
  all_goals exact .completed rfl

variable {kinds : List ErrorKind} {r : Except ErrorKind Frame}

theorem deliver_endsIn (h : ∀ k, r = .error k → k ∈ kinds) : EndsIn kinds (invalidateDecode s) (deliver r s) := by
  cases r with
  | ok f => exact .completed rfl
  | error k => exact .raised (h k rfl) rfl

/-- A verdict alone invalidates nothing (R112). -/
theorem setStatus_outcomeStatus_endsIn (h : ∀ k, r = .error k → k ∈ kinds) :
    EndsIn kinds s (s.setStatus (outcomeStatus r)) := by
  cases r with
  | ok f => exact .completed rfl
  | error k => exact .raised (h k rfl) rfl

end

/-! ### How every operation ends -/

/-- The state in which a failing operation raises its kind: its destinations invalidated, and RXS and FBUF as its row of
the table says (R157). -/
def withoutDestinations (i : Instr) (s : State) : State :=
  match i with
  | .fenc => { s with fbuf := [], csum := none, rxs := .empty }
  | .fdec => invalidateDecode s
  | .recv => invalidateDecode ((s.setRxs .empty).setFbuf (fromStartMarker s.fbuf))
  | .rxend => invalidateDecode (s.setRxs .empty)
  | .vdecU _ => invalidateValue s
  | .vdecS _ => invalidateValue s
  | .rxbyte _ => s.setRxs .ovf
  | _ => s

/-- Every operation but NOP completes, or raises a kind listed for it with its destinations invalidated (R150, R157). -/
theorem exec_endsIn {i : Instr} (hi : i ≠ .nop) (s : State) :
    AnswersOnly (EndsIn (kindsOf i) (withoutDestinations i s)) (exec i s) := by
  cases i with
  | nop => exact absurd rfl hi
  | pushf b => exact answersOnly_next (appendFbuf_endsIn s b)
  | pushp b => exact answersOnly_next (appendPbuf_endsIn s b)
  | fenc => exact answersOnly_withNode fun n => answersOnly_withCmd fun c => answersOnly_next (placeFrame_endsIn s n c)
  | fdec =>
    exact answersOnly_withXnode fun x => answersOnly_next (deliver_endsIn s fun k hk => decodeFrame_error_mem hk)
  | fchk =>
    exact answersOnly_withXnode fun x => answersOnly_next
      (setStatus_outcomeStatus_endsIn s fun k hk => decodeFrame_error_mem hk)
  | vdecU off => exact answersOnly_next (decodeValueAt_endsIn s false off)
  | vdecS off => exact answersOnly_next (decodeValueAt_endsIn s true off)
  | vencU1 w => exact answersOnly_next (appendEncoded_endsIn s 1 false w)
  | vencU2 w => exact answersOnly_next (appendEncoded_endsIn s 2 false w)
  | vencU3 w => exact answersOnly_next (appendEncoded_endsIn s 3 false w)
  | vencU4 w => exact answersOnly_next (appendEncoded_endsIn s 4 false w)
  | vencS1 w => exact answersOnly_next (appendEncoded_endsIn s 1 true w)
  | vencS2 w => exact answersOnly_next (appendEncoded_endsIn s 2 true w)
  | vencS3 w => exact answersOnly_next (appendEncoded_endsIn s 3 true w)
  | vencS4 w => exact answersOnly_next (appendEncoded_endsIn s 4 true w)
  | recv =>
    exact answersOnly_withXnode fun x => answersOnly_next (deliver_endsIn _ fun k hk => receive_error_mem hk)
  | rxbyte b => exact answersOnly_next (receiveByte_endsIn s b)
  | rxend =>
    exact answersOnly_withXnode fun x => answersOnly_next (deliver_endsIn _ fun k hk => chunkVerdict_error_mem hk)
  | clrf | clrp | setxn _ | setnode _ | setcmd _ | crcinit | crcbyte _ | crcf | bldrst | bldrd _ _ =>
    exact answersOnly_next (.completed rfl)

/-! ### The statements of 60_exceptions.md -/

/-- Settles O53: however an operation ends, its STATUS is OK or a kind listed for it. -/
theorem operationsReportOnlyTheirKinds : Obligations.OperationsReportOnlyTheirKinds :=
  fun _ s t hi ht => (exec_endsIn hi s t ht).status

/-- Settles O57: an error STATUS names a kind listed for the operation, so the operations with an empty list do not fail,
and the state is that of the operation's row. NOP answers the state it is given. -/
theorem failureInvalidatesItsDestinations : Obligations.FailureInvalidatesItsDestinations := by
  intro i s t k ht hs
  by_cases hi : i = .nop
  · subst hi
    cases (exec_nop s).symm.trans ht
    rfl
  obtain ⟨hmem, rfl⟩ := (exec_endsIn hi s t ht).of_error hs
  cases i with
  | nop => exact absurd rfl hi
  | clrf | clrp | setxn _ | setnode _ | setcmd _ | crcinit | crcbyte _ | crcf | bldrst | bldrd _ _ =>
    exact List.not_mem_nil hmem
  | _ => rfl

end Sys2Proof.Exceptions
end

