-- ==== Sys2Proof/Proofs/ResetAndHazards.lean ====
section
/-! The state after reset (70_reset_and_hazards.md): the table of R175 beside `State.reset`. -/

namespace Sys2Proof.ResetAndHazards

open Sys2Proof.Machine

/-- After reset STATUS presents `NONE` and RXS presents `RX_EMPTY` (R13, R21). -/
theorem reset_codes : statusCode State.reset.status = 15#4 ∧ rxCode State.reset.rxs = 0#2 := ⟨rfl, rfl⟩

/-- No register that can lack a value has one after reset (R12, R31). -/
theorem reset_holds_no_value :
    State.reset.xnode = none ∧ State.reset.node = none ∧ State.reset.cmd = none ∧ State.reset.csum = none ∧
      State.reset.val = none ∧ State.reset.vw = none :=
  ⟨rfl, rfl, rfl, rfl, rfl, rfl⟩

theorem reset_buffers : State.reset.pbuf = [] ∧ State.reset.fbuf = [] := ⟨rfl, rfl⟩

/-- Settles O46: the two codes, the registers without a value and the buffers, in the order of the table. -/
theorem resetStateIsThatOfTheTable : Obligations.ResetStateIsThatOfTheTable := by
  obtain ⟨hstatus, hrxs⟩ := reset_codes
  obtain ⟨hxnode, hnode, hcmd, hcsum, hval, hvw⟩ := reset_holds_no_value
  exact ⟨hstatus, rfl, hxnode, hnode, hcmd, hcsum, hval, hvw, hrxs, reset_buffers⟩

end Sys2Proof.ResetAndHazards
end
